-- ==== Sys2Proof/Word.lean ====
section
/-! DEFINITION. The word types of the unit: bytes, 32-bit and 64-bit registers, the 96-bit dispatch word. -/

namespace Sys2Proof

/-- A payload byte or an 8-bit channel. -/
abbrev Byte := BitVec 8

/-- A 32-bit register or a target pixel word. -/
abbrev Word32 := BitVec 32

/-- The 64-bit `FMT` register, and the big-endian block words of ETC. -/
abbrev Word64 := BitVec 64

/-- The dispatch word `CW = FMT[63:0] ++ CMD[31:0]` (30_encoding.md R71). -/
abbrev DispatchWord := BitVec 96

end Sys2Proof
end

