-- ==== Sys2Proof/Config.lean ====
section
/-! DEFINITION. What an implementation fixes (00_scope.md R7): the constants, the OPEN parameters, and the free value
of a payload byte that nothing has loaded. -/

namespace Sys2Proof.Config

/-- `CACHE_CAP`: the cache device holds at most 8 entries (R7). -/
def cacheCap : Nat := 8

/-- `TILE_W` and `TILE_H` of DXT and ETC (R7). -/
def tileSize : Nat := 4

/-- `WH`: the height in pixels of a PVRTC word (R7). -/
def wordHeight : Nat := 4

/-- `PVRTC_WORD_BYTES` (R7). -/
def pvrtcWordBytes : Nat := 8

/-- `PVRTC_MIN_WORDS`: the least word-grid size in each direction (R7, R194). -/
def pvrtcMinWords : Nat := 2

/-- The OPEN parameters of R7 that a decode unit reads. They are plain data that a state carries, so that a statement
about every state is a statement about every value of them (log 5: DESIGN CHOICE). -/
structure Params where
  /-- `ETC_ROUTED`: whether DECODE of an ETC format reaches the ETC decoder (R230). -/
  etcRouted : Bool
  /-- `KNOWN_FORMATS`: the low-32-bit format codes that are known (R72). -/
  knownFormats : List Nat
deriving DecidableEq, Repr

/-- The defaults the spec states: `ETC_ROUTED = false`, `KNOWN_FORMATS = {0, …, 26}` (R7). -/
def defaultParams : Params := { etcRouted := false, knownFormats := List.range 27 }

/-- FREE VALUE (log 6: DESIGN CHOICE): what the payload byte at an address reads as while the host has written nothing
there. No value of it can be proved. -/
opaque unloadedPayloadByte : Nat → Byte

end Sys2Proof.Config
end

