-- ==== Sys2Proof/Syntax.lean ====
section
/-! DEFINITION. The instructions: one constructor per row of spec/opcode_table.json. An instruction is a command, that
is a write of `CMD` together with the format tag of the dispatch word (30_encoding.md R70, R71, R99). -/

namespace Sys2Proof

/-- The commands of the unit. A row whose mask leaves bits of `CW` open carries the bits its meaning depends on. -/
inductive Instr where
  /-- `DECODE.DXT1`, R236. -/
  | decodeDxt1
  /-- `DECODE.DXT3`, R237. -/
  | decodeDxt3
  /-- `DECODE.DXT5`, R238. -/
  | decodeDxt5
  /-- `DECODE.ETC1`, R239. -/
  | decodeEtc1
  /-- `DECODE.ETC2_RGB`, R240. -/
  | decodeEtc2Rgb
  /-- `DECODE.ETC2_RGBA`, R241. -/
  | decodeEtc2Rgba
  /-- `DECODE.ETC2_RGB_A1`, R242. -/
  | decodeEtc2RgbA1
  /-- `DECODE.PVRTC_2BPP_RGB`, R204. -/
  | decodePvrtc2bppRgb
  /-- `DECODE.PVRTC_2BPP_RGBA`, R205. -/
  | decodePvrtc2bppRgba
  /-- `DECODE.PVRTC_4BPP_RGB`, R206. -/
  | decodePvrtc4bppRgb
  /-- `DECODE.PVRTC_4BPP_RGBA`, R207. -/
  | decodePvrtc4bppRgba
  /-- `DECODE.FALLBACK.PVRTC2_2BPP`, R243. -/
  | decodeFallbackPvrtcII2bpp
  /-- `DECODE.FALLBACK.PVRTC2_4BPP`, R243. -/
  | decodeFallbackPvrtcII4bpp
  /-- `DECODE.FALLBACK.DXT2`, R243. -/
  | decodeFallbackDxt2
  /-- `DECODE.FALLBACK.DXT4`, R243. -/
  | decodeFallbackDxt4
  /-- `DECODE.FALLBACK.BC4`, R243. -/
  | decodeFallbackBc4
  /-- `DECODE.FALLBACK.BC5`, R243. -/
  | decodeFallbackBc5
  /-- `DECODE.FALLBACK.BC6`, R243. -/
  | decodeFallbackBc6
  /-- `DECODE.FALLBACK.BC7`, R243. -/
  | decodeFallbackBc7
  /-- `DECODE.FALLBACK.UYVY`, R243. -/
  | decodeFallbackUyvy
  /-- `DECODE.FALLBACK.YUY2`, R243. -/
  | decodeFallbackYuy2
  /-- `DECODE.FALLBACK.BW1BPP`, R243. -/
  | decodeFallbackBw1bpp
  /-- `DECODE.FALLBACK.R9G9B9E5`, R243. -/
  | decodeFallbackR9g9b9e5
  /-- `DECODE.FALLBACK.RGBG8888`, R243. -/
  | decodeFallbackRgbg8888
  /-- `DECODE.FALLBACK.GRGB8888`, R243. -/
  | decodeFallbackGrgb8888
  /-- `DECODE.FALLBACK.EAC_R11`, R243. -/
  | decodeFallbackEacR11
  /-- `DECODE.FALLBACK.EAC_RG11`, R243. -/
  | decodeFallbackEacRg11
  /-- `DECODE.FALLBACK.CUSTOM`, R243. The operand is the custom `FMT`. -/
  | decodeFallbackCustom (fmt : Word64)
  /-- `DECODE.UNSUPPORTED`, R252. The operand is `FMT_LO`. -/
  | decodeUnsupported (code : Word32)
  /-- `BLOCK.DXT1`, R120. -/
  | blockDxt1
  /-- `BLOCK.DXT3`, R121. -/
  | blockDxt3
  /-- `BLOCK.DXT5`, R122. -/
  | blockDxt5
  /-- `BLOCK.ETC1`, R160. -/
  | blockEtc1
  /-- `BLOCK.ETC2_RGB`, R161. -/
  | blockEtc2Rgb
  /-- `BLOCK.ETC2_RGB_A1`, R162. -/
  | blockEtc2RgbA1
  /-- `BLOCK.ETC2_RGBA`, R163. -/
  | blockEtc2Rgba
  /-- `BLOCK.PVRTC_2BPP_RGB`, R200. -/
  | blockPvrtc2bppRgb
  /-- `BLOCK.PVRTC_2BPP_RGBA`, R201. -/
  | blockPvrtc2bppRgba
  /-- `BLOCK.PVRTC_4BPP_RGB`, R202. -/
  | blockPvrtc4bppRgb
  /-- `BLOCK.PVRTC_4BPP_RGBA`, R203. -/
  | blockPvrtc4bppRgba
  /-- `BLOCK.ILLEGAL`, R256. The operand is `FMT`. -/
  | blockIllegal (fmt : Word64)
  /-- `FLUSH`, R233. -/
  | flush
  /-- `ILLEGAL.CMD`, R256. The operand is the `CMD` word. -/
  | illegalCmd (cmd : Word32)
deriving DecidableEq, Repr

end Sys2Proof
end

