-- ==== Sys2Proof/WellFormed.lean ====
section
/-! DEFINITION. Which instructions are well formed: the conditions the rows of opcode_table.json put on the bits a
constructor carries. -/

namespace Sys2Proof

/-- The named format codes of 30_encoding.md R72 end at 26. -/
def lastNamedFormat : Nat := 26

/-- The format codes with a block datapath (43_sequencer.md R234). -/
def blockFormatCodes : List Nat := [0, 1, 2, 3, 6, 7, 9, 11, 22, 23, 24]

/-- A row's condition on the operand its constructor carries: CUSTOM has `FMT_HI ≠ 0`, UNSUPPORTED a code with no row,
BLOCK.ILLEGAL a format with no block datapath, ILLEGAL.CMD a word that is no DECODE, BLOCK or FLUSH. -/
def Instr.wellFormed : Instr → Bool
  | .decodeFallbackCustom fmt => decide (2 ^ 32 ≤ fmt.toNat)
  | .decodeUnsupported code => decide (lastNamedFormat < code.toNat)
  | .blockIllegal fmt => !blockFormatCodes.contains fmt.toNat
  | .illegalCmd cmd => decide (2 < cmd.toNat)
  | .decodeDxt1 => true
  | .decodeDxt3 => true
  | .decodeDxt5 => true
  | .decodeEtc1 => true
  | .decodeEtc2Rgb => true
  | .decodeEtc2Rgba => true
  | .decodeEtc2RgbA1 => true
  | .decodePvrtc2bppRgb => true
  | .decodePvrtc2bppRgba => true
  | .decodePvrtc4bppRgb => true
  | .decodePvrtc4bppRgba => true
  | .decodeFallbackPvrtcII2bpp => true
  | .decodeFallbackPvrtcII4bpp => true
  | .decodeFallbackDxt2 => true
  | .decodeFallbackDxt4 => true
  | .decodeFallbackBc4 => true
  | .decodeFallbackBc5 => true
  | .decodeFallbackBc6 => true
  | .decodeFallbackBc7 => true
  | .decodeFallbackUyvy => true
  | .decodeFallbackYuy2 => true
  | .decodeFallbackBw1bpp => true
  | .decodeFallbackR9g9b9e5 => true
  | .decodeFallbackRgbg8888 => true
  | .decodeFallbackGrgb8888 => true
  | .decodeFallbackEacR11 => true
  | .decodeFallbackEacRg11 => true
  | .blockDxt1 => true
  | .blockDxt3 => true
  | .blockDxt5 => true
  | .blockEtc1 => true
  | .blockEtc2Rgb => true
  | .blockEtc2RgbA1 => true
  | .blockEtc2Rgba => true
  | .blockPvrtc2bppRgb => true
  | .blockPvrtc2bppRgba => true
  | .blockPvrtc4bppRgb => true
  | .blockPvrtc4bppRgba => true
  | .flush => true

end Sys2Proof
end

