-- ==== Sys2Proof/Decode.lean ====
section
/-! DEFINITION. The decoder, total on every dispatch word, and the encoder (30_encoding.md R70 to R73, R97, R99).
Reserved command words, formats with no block datapath and unknown codes decode to the row that names the rejection
(`ILLEGAL.CMD`, `BLOCK.ILLEGAL`, `DECODE.UNSUPPORTED`), never to a neighbour. -/

namespace Sys2Proof

/-- `FMT_HI`, the upper half of a format word (10_state.md R24). -/
def fmtHi (fmt : Word64) : Word32 := fmt.extractLsb' 32 32

/-- `FMT_LO`, the lower half of a format word (10_state.md R24). -/
def fmtLo (fmt : Word64) : Word32 := fmt.extractLsb' 0 32

/-- The DECODE rows: the instruction of a DECODE of the format word `fmt` (R72, R73, R99). -/
def decodeOfFormat (fmt : Word64) : Instr :=
  match fmt.toNat with
  | 0 => .decodePvrtc2bppRgb
  | 1 => .decodePvrtc2bppRgba
  | 2 => .decodePvrtc4bppRgb
  | 3 => .decodePvrtc4bppRgba
  | 4 => .decodeFallbackPvrtcII2bpp
  | 5 => .decodeFallbackPvrtcII4bpp
  | 6 => .decodeEtc1
  | 7 => .decodeDxt1
  | 8 => .decodeFallbackDxt2
  | 9 => .decodeDxt3
  | 10 => .decodeFallbackDxt4
  | 11 => .decodeDxt5
  | 12 => .decodeFallbackBc4
  | 13 => .decodeFallbackBc5
  | 14 => .decodeFallbackBc6
  | 15 => .decodeFallbackBc7
  | 16 => .decodeFallbackUyvy
  | 17 => .decodeFallbackYuy2
  | 18 => .decodeFallbackBw1bpp
  | 19 => .decodeFallbackR9g9b9e5
  | 20 => .decodeFallbackRgbg8888
  | 21 => .decodeFallbackGrgb8888
  | 22 => .decodeEtc2Rgb
  | 23 => .decodeEtc2Rgba
  | 24 => .decodeEtc2RgbA1
  | 25 => .decodeFallbackEacR11
  | 26 => .decodeFallbackEacRg11
  | _ => if fmtHi fmt = 0 then .decodeUnsupported (fmtLo fmt) else .decodeFallbackCustom fmt

/-- The BLOCK rows: the instruction of a BLOCK of the format word `fmt` (R72, R99, R234). -/
def blockOfFormat (fmt : Word64) : Instr :=
  match fmt.toNat with
  | 0 => .blockPvrtc2bppRgb
  | 1 => .blockPvrtc2bppRgba
  | 2 => .blockPvrtc4bppRgb
  | 3 => .blockPvrtc4bppRgba
  | 6 => .blockEtc1
  | 7 => .blockDxt1
  | 9 => .blockDxt3
  | 11 => .blockDxt5
  | 22 => .blockEtc2Rgb
  | 23 => .blockEtc2Rgba
  | 24 => .blockEtc2RgbA1
  | _ => .blockIllegal fmt

/-- The instruction of a `CMD` write while `FMT` holds `fmt` (R70, R99). -/
def decodeCommandWord (fmt : Word64) (cmd : Word32) : Instr :=
  if cmd = 0 then decodeOfFormat fmt
  else if cmd = 1 then blockOfFormat fmt
  else if cmd = 2 then .flush
  else .illegalCmd cmd

/-- `CW = FMT[63:0] ++ CMD[31:0]` (R71). -/
def dispatchWord (fmt : Word64) (cmd : Word32) : DispatchWord := fmt ++ cmd

/-- The decoder over the dispatch word (R71). -/
def decodeWord (cw : DispatchWord) : Instr :=
  decodeCommandWord (cw.extractLsb' 32 64) (cw.extractLsb' 0 32)

/-- The `FMT` half an instruction is encoded with. A row that ignores `FMT` is encoded with 0. -/
def encodeFmt : Instr → Word64
  | .decodeDxt1 => 7
  | .decodeDxt3 => 9
  | .decodeDxt5 => 11
  | .decodeEtc1 => 6
  | .decodeEtc2Rgb => 22
  | .decodeEtc2Rgba => 23
  | .decodeEtc2RgbA1 => 24
  | .decodePvrtc2bppRgb => 0
  | .decodePvrtc2bppRgba => 1
  | .decodePvrtc4bppRgb => 2
  | .decodePvrtc4bppRgba => 3
  | .decodeFallbackPvrtcII2bpp => 4
  | .decodeFallbackPvrtcII4bpp => 5
  | .decodeFallbackDxt2 => 8
  | .decodeFallbackDxt4 => 10
  | .decodeFallbackBc4 => 12
  | .decodeFallbackBc5 => 13
  | .decodeFallbackBc6 => 14
  | .decodeFallbackBc7 => 15
  | .decodeFallbackUyvy => 16
  | .decodeFallbackYuy2 => 17
  | .decodeFallbackBw1bpp => 18
  | .decodeFallbackR9g9b9e5 => 19
  | .decodeFallbackRgbg8888 => 20
  | .decodeFallbackGrgb8888 => 21
  | .decodeFallbackEacR11 => 25
  | .decodeFallbackEacRg11 => 26
  | .decodeFallbackCustom fmt => fmt
  | .decodeUnsupported code => (0 : Word32) ++ code
  | .blockDxt1 => 7
  | .blockDxt3 => 9
  | .blockDxt5 => 11
  | .blockEtc1 => 6
  | .blockEtc2Rgb => 22
  | .blockEtc2RgbA1 => 24
  | .blockEtc2Rgba => 23
  | .blockPvrtc2bppRgb => 0
  | .blockPvrtc2bppRgba => 1
  | .blockPvrtc4bppRgb => 2
  | .blockPvrtc4bppRgba => 3
  | .blockIllegal fmt => fmt
  | .flush => 0
  | .illegalCmd _ => 0

/-- The `CMD` half an instruction is encoded with (R70, R75). -/
def encodeCmd : Instr → Word32
  | .decodeDxt1 => 0
  | .decodeDxt3 => 0
  | .decodeDxt5 => 0
  | .decodeEtc1 => 0
  | .decodeEtc2Rgb => 0
  | .decodeEtc2Rgba => 0
  | .decodeEtc2RgbA1 => 0
  | .decodePvrtc2bppRgb => 0
  | .decodePvrtc2bppRgba => 0
  | .decodePvrtc4bppRgb => 0
  | .decodePvrtc4bppRgba => 0
  | .decodeFallbackPvrtcII2bpp => 0
  | .decodeFallbackPvrtcII4bpp => 0
  | .decodeFallbackDxt2 => 0
  | .decodeFallbackDxt4 => 0
  | .decodeFallbackBc4 => 0
  | .decodeFallbackBc5 => 0
  | .decodeFallbackBc6 => 0
  | .decodeFallbackBc7 => 0
  | .decodeFallbackUyvy => 0
  | .decodeFallbackYuy2 => 0
  | .decodeFallbackBw1bpp => 0
  | .decodeFallbackR9g9b9e5 => 0
  | .decodeFallbackRgbg8888 => 0
  | .decodeFallbackGrgb8888 => 0
  | .decodeFallbackEacR11 => 0
  | .decodeFallbackEacRg11 => 0
  | .decodeFallbackCustom _ => 0
  | .decodeUnsupported _ => 0
  | .blockDxt1 => 1
  | .blockDxt3 => 1
  | .blockDxt5 => 1
  | .blockEtc1 => 1
  | .blockEtc2Rgb => 1
  | .blockEtc2RgbA1 => 1
  | .blockEtc2Rgba => 1
  | .blockPvrtc2bppRgb => 1
  | .blockPvrtc2bppRgba => 1
  | .blockPvrtc4bppRgb => 1
  | .blockPvrtc4bppRgba => 1
  | .blockIllegal _ => 1
  | .flush => 2
  | .illegalCmd cmd => cmd

/-- The encoder: the dispatch word of an instruction. -/
def encode (i : Instr) : DispatchWord := dispatchWord (encodeFmt i) (encodeCmd i)

/-- The `match` of an instruction's row of opcode_table.json, over `CW` (R71). -/
def rowMatch : Instr → DispatchWord
  | .decodeDxt1 => 0x700000000
  | .decodeDxt3 => 0x900000000
  | .decodeDxt5 => 0xb00000000
  | .decodeEtc1 => 0x600000000
  | .decodeEtc2Rgb => 0x1600000000
  | .decodeEtc2Rgba => 0x1700000000
  | .decodeEtc2RgbA1 => 0x1800000000
  | .decodePvrtc2bppRgb => 0x0
  | .decodePvrtc2bppRgba => 0x100000000
  | .decodePvrtc4bppRgb => 0x200000000
  | .decodePvrtc4bppRgba => 0x300000000
  | .decodeFallbackPvrtcII2bpp => 0x400000000
  | .decodeFallbackPvrtcII4bpp => 0x500000000
  | .decodeFallbackDxt2 => 0x800000000
  | .decodeFallbackDxt4 => 0xa00000000
  | .decodeFallbackBc4 => 0xc00000000
  | .decodeFallbackBc5 => 0xd00000000
  | .decodeFallbackBc6 => 0xe00000000
  | .decodeFallbackBc7 => 0xf00000000
  | .decodeFallbackUyvy => 0x1000000000
  | .decodeFallbackYuy2 => 0x1100000000
  | .decodeFallbackBw1bpp => 0x1200000000
  | .decodeFallbackR9g9b9e5 => 0x1300000000
  | .decodeFallbackRgbg8888 => 0x1400000000
  | .decodeFallbackGrgb8888 => 0x1500000000
  | .decodeFallbackEacR11 => 0x1900000000
  | .decodeFallbackEacRg11 => 0x1a00000000
  | .decodeFallbackCustom _ => 0x0
  | .decodeUnsupported _ => 0x0
  | .blockDxt1 => 0x700000001
  | .blockDxt3 => 0x900000001
  | .blockDxt5 => 0xb00000001
  | .blockEtc1 => 0x600000001
  | .blockEtc2Rgb => 0x1600000001
  | .blockEtc2RgbA1 => 0x1800000001
  | .blockEtc2Rgba => 0x1700000001
  | .blockPvrtc2bppRgb => 0x1
  | .blockPvrtc2bppRgba => 0x100000001
  | .blockPvrtc4bppRgb => 0x200000001
  | .blockPvrtc4bppRgba => 0x300000001
  | .blockIllegal _ => 0x1
  | .flush => 0x2
  | .illegalCmd _ => 0x0

/-- The `mask` of an instruction's row of opcode_table.json, over `CW` (R71). -/
def rowMask : Instr → DispatchWord
  | .decodeDxt1 => 0xffffffffffffffffffffffff
  | .decodeDxt3 => 0xffffffffffffffffffffffff
  | .decodeDxt5 => 0xffffffffffffffffffffffff
  | .decodeEtc1 => 0xffffffffffffffffffffffff
  | .decodeEtc2Rgb => 0xffffffffffffffffffffffff
  | .decodeEtc2Rgba => 0xffffffffffffffffffffffff
  | .decodeEtc2RgbA1 => 0xffffffffffffffffffffffff
  | .decodePvrtc2bppRgb => 0xffffffffffffffffffffffff
  | .decodePvrtc2bppRgba => 0xffffffffffffffffffffffff
  | .decodePvrtc4bppRgb => 0xffffffffffffffffffffffff
  | .decodePvrtc4bppRgba => 0xffffffffffffffffffffffff
  | .decodeFallbackPvrtcII2bpp => 0xffffffffffffffffffffffff
  | .decodeFallbackPvrtcII4bpp => 0xffffffffffffffffffffffff
  | .decodeFallbackDxt2 => 0xffffffffffffffffffffffff
  | .decodeFallbackDxt4 => 0xffffffffffffffffffffffff
  | .decodeFallbackBc4 => 0xffffffffffffffffffffffff
  | .decodeFallbackBc5 => 0xffffffffffffffffffffffff
  | .decodeFallbackBc6 => 0xffffffffffffffffffffffff
  | .decodeFallbackBc7 => 0xffffffffffffffffffffffff
  | .decodeFallbackUyvy => 0xffffffffffffffffffffffff
  | .decodeFallbackYuy2 => 0xffffffffffffffffffffffff
  | .decodeFallbackBw1bpp => 0xffffffffffffffffffffffff
  | .decodeFallbackR9g9b9e5 => 0xffffffffffffffffffffffff
  | .decodeFallbackRgbg8888 => 0xffffffffffffffffffffffff
  | .decodeFallbackGrgb8888 => 0xffffffffffffffffffffffff
  | .decodeFallbackEacR11 => 0xffffffffffffffffffffffff
  | .decodeFallbackEacRg11 => 0xffffffffffffffffffffffff
  | .decodeFallbackCustom _ => 0xffffffff
  | .decodeUnsupported _ => 0xffffffff00000000ffffffff
  | .blockDxt1 => 0xffffffffffffffffffffffff
  | .blockDxt3 => 0xffffffffffffffffffffffff
  | .blockDxt5 => 0xffffffffffffffffffffffff
  | .blockEtc1 => 0xffffffffffffffffffffffff
  | .blockEtc2Rgb => 0xffffffffffffffffffffffff
  | .blockEtc2RgbA1 => 0xffffffffffffffffffffffff
  | .blockEtc2Rgba => 0xffffffffffffffffffffffff
  | .blockPvrtc2bppRgb => 0xffffffffffffffffffffffff
  | .blockPvrtc2bppRgba => 0xffffffffffffffffffffffff
  | .blockPvrtc4bppRgb => 0xffffffffffffffffffffffff
  | .blockPvrtc4bppRgba => 0xffffffffffffffffffffffff
  | .blockIllegal _ => 0xffffffff
  | .flush => 0xffffffff
  | .illegalCmd _ => 0x0

/-- The host's reading of a table word: `w` numbered as opcode_table.json numbers `CW`, its bits above `nbits` being 0.
A number that is no 96-bit dispatch word is refused. -/
def decodeTableWord (nbits w : Nat) : Option Instr :=
  if nbits ≤ 96 ∧ w < 2 ^ 96 then some (decodeWord (BitVec.ofNat 96 (w % 2 ^ nbits))) else none

end Sys2Proof
end

