-- ==== Sys2Proof/Machine/State.lean ====
section
/-! DEFINITION. The state of the machine as plain data, the reasons a step can stop, and the state after reset
(10_state.md, 70_reset_and_hazards.md R280). -/

namespace Sys2Proof.Machine

/-- A pixel: four 8-bit channels (00_scope.md R12). -/
structure Pixel where
  r : Byte
  g : Byte
  b : Byte
  a : Byte
deriving DecidableEq, Repr

/-- `TRANSPARENT_BLACK = (0, 0, 0, 0)` (R12). -/
def transparentBlack : Pixel := { r := 0, g := 0, b := 0, a := 0 }

/-- The sequencer cursor while a DECODE runs (R23): `CUR_BX, CUR_BY` over blocks, `CUR_WX, CUR_WY` over PVRTC words. -/
inductive Cursor where
  | block (column row : Nat)
  | word (column row : Int)
deriving DecidableEq, Repr

/-- A whole-texture bitmap (R42), its pixels row by row. -/
structure Bitmap where
  width : Nat
  height : Nat
  pixels : List Pixel
deriving DecidableEq, Repr

/-- An entry of the cache device (60_exceptions.md section 4): an `INFO_ID` and a bitmap. -/
structure CacheEntry where
  key : Word32
  bitmap : Bitmap
deriving DecidableEq, Repr

/-- The atomic operations of the cache device (R262, R263, R264). -/
inductive CacheOp where
  | lookup (key : Word32)
  | insert (key : Word32) (bitmap : Bitmap)
  | flush
deriving DecidableEq, Repr

/-- The 32-bit configuration registers (R25 to R34). -/
inductive ConfigReg where
  | flags | cspace | chtype | texW | texH | texDepth | surfaces | faces | mipmaps | payloadLen | infoId
  | regX | regY | regW | regH | tgtW | tgtH | ctrl
deriving DecidableEq, Repr

/-- The registers that `UnsetConfig` names (60_exceptions.md R257). -/
inductive RegId where
  | fmt
  | config (r : ConfigReg)
  | blkIn
deriving DecidableEq, Repr

/-- The error kinds a command raises, each with what its `FAULT_INFO` value says (R250). -/
inductive ErrorKind where
  /-- `UnsupportedFormat` (R252). -/
  | unsupportedFormat
  /-- `DecodeFault(PAYLOAD_UNDERRUN)` (R254). -/
  | payloadUnderrun
  /-- `DecodeFault(TARGET_OVERRUN)` (R254). -/
  | targetOverrun
  /-- `IllegalCommand(1)`: a bad `CMD` word (R256). -/
  | illegalWord
  /-- `IllegalCommand(2)`: a BLOCK of a format with no block datapath (R256). -/
  | illegalBlock
  /-- `UnsetConfig` of the first unwritten register the command read (R257). -/
  | unsetConfig (r : RegId)
deriving DecidableEq, Repr

/-- How a command completes without a raise (R235, R250). -/
inductive Completion where
  /-- `OK`. -/
  | ok
  /-- `UNIMPLEMENTED_PIXEL_FORMAT` (R255). -/
  | unimplementedPixelFormat
  /-- `INVALID_DECODE_ARGUMENTS` (R258). -/
  | invalidDecodeArguments
deriving DecidableEq, Repr

/-- What a host read names: the readable registers of 10_state.md, the cache observation registers of R266 and a word of
the target. `CMD` is listed because R36 says what reading it gives. -/
inductive HostReadable where
  | fmt
  | config (r : ConfigReg)
  | cmd
  | result
  | status
  | faultInfo
  | faultSeen
  | blkOut (i : Fin 32)
  | cacheCount
  | cacheKeys
  | target (index : Nat)
deriving DecidableEq, Repr

/-- What the command in progress on a unit does next (R62, R265). -/
inductive Progress where
  /-- The insertion of the decoded image into the cache device. -/
  | insert
  /-- The pixel write with this number among those still to be made. -/
  | pixel (n : Nat)
  /-- All that remains, and then the completion. -/
  | finish
deriving DecidableEq, Repr

/-- One access of the host: the lines of the assembler of 30_encoding.md R75, the finer writes they are made of, and
what else the host may do to a unit (R20, R280, R271, R286, R265); and the progress of a command in progress (R62). -/
inductive HostEvent where
  /-- `SET FMT, v`. -/
  | setFmt (v : Word64)
  /-- `SET <REG>, v` of a 32-bit configuration register. -/
  | set (r : ConfigReg) (v : Word32)
  /-- A host write of one byte of `BLK_IN` (R35). -/
  | writeBlkIn (i : Fin 32) (v : Byte)
  /-- `LOAD BLK_IN, bytes`: byte `k` of the list goes to `BLK_IN[k]`. -/
  | loadBlkIn (bytes : List Byte)
  /-- A host write of one payload byte (R50). -/
  | writePayload (address : Word32) (v : Byte)
  /-- `LOAD PAYLOAD, bytes`: byte `k` of the list goes to payload address `k`, and `PAYLOAD_LEN` is set. -/
  | loadPayload (bytes : List Byte)
  /-- A host write of one word of the target memory the unit is bound to (R52). -/
  | writeTarget (index : Nat) (v : Word32)
  /-- The host parses a container and, if it is accepted, loads the registers and the payload (R76, R251). -/
  | loadContainer (buffer : Option (List Byte))
  /-- A host read (R232, R266, R268); it has no effect. -/
  | read (r : HostReadable)
  /-- The host turns to unit `unit` (R271). -/
  | select (unit : Nat)
  /-- Cache operations of other units that will fall between this machine's next PVRTC lookup and its insertion (R265). -/
  | gap (ops : List CacheOp)
  /-- The RESET of R280. -/
  | reset
  /-- The host binds the target memory with number `binding` to the unit (R282, R286). -/
  | bindTarget (binding : Nat)
  /-- The write of `CMD` that starts a command (R36), which runs from its issue to its completion before anything else
  happens. -/
  | cmd (word : Word32)
  /-- The same write, where other units may act between the command's issue and its completion (R62, R265, R286). -/
  | start (word : Word32)
  /-- What the unit's command in progress does next. It is no access of the host: it is the unit's own step (R62). -/
  | proceed (p : Progress)
deriving DecidableEq, Repr

/-- One decode unit: its registers, its payload memory and the number of the target memory bound to it (R21, R50, R286).
The last three fields are the model's own: what the command in progress still has to do (R62, R265; log 30). `none` in a
configuration register or a latch entry is the spec's own reset value, unwritten or no value (R44, R281). -/
structure DecodeUnit where
  fmt : Option Word64
  flags : Option Word32
  cspace : Option Word32
  chtype : Option Word32
  texW : Option Word32
  texH : Option Word32
  texDepth : Option Word32
  surfaces : Option Word32
  faces : Option Word32
  mipmaps : Option Word32
  payloadLen : Option Word32
  infoId : Option Word32
  regX : Option Word32
  regY : Option Word32
  regW : Option Word32
  regH : Option Word32
  tgtW : Option Word32
  tgtH : Option Word32
  ctrl : Option Word32
  blkIn : Vector (Option Byte) 32
  /-- The command in progress (R36, R44). -/
  cmd : Option Word32
  result : Bool
  status : Byte
  faultInfo : Byte
  faultSeen : Bool
  blkOut : Vector (Option Pixel) 32
  cursor : Option Cursor
  /-- The payload memory: the bytes the host has written, in the canonical form of Machine/Memory.lean. -/
  payload : List Host.Cell
  /-- The target binding: the number of a target memory of `State.targets` (R271, R286; log 29). -/
  binding : Nat
  /-- The model's own field: the pixel writes of the command in progress that are still to be made, as word index and
  word (R62). -/
  writes : List (Nat × Word32)
  /-- The model's own field: the insertion that the command in progress still has to make (R265). -/
  insertion : Option (Word32 × Bitmap)
  /-- The model's own field: how the command in progress will complete (R63). -/
  completion : Option Completion
deriving DecidableEq, Repr

/-- The machine: the unit the host drives now, the other units, the target memories, the shared cache device, the
parameters of R7, and the inputs still to come. -/
structure State where
  /-- The model's own field: the OPEN parameters (log 5). -/
  params : Config.Params
  /-- The model's own field: the number of the unit the host drives now (R271). -/
  unitId : Nat
  unit : DecodeUnit
  /-- The other units with their numbers (R21, R271). -/
  peers : List (Nat × DecodeUnit)
  /-- The target pixel memories by binding number, each with the words written by word index, in the canonical form of
  Machine/Memory.lean (R52, R286). -/
  targets : List (Nat × List (Nat × Word32))
  /-- The cache device, least recently used entry first (R42). -/
  cache : List CacheEntry
  /-- The model's own field: cache operations of other units that fall between the next PVRTC lookup and its insertion
  (R265, log 9). -/
  gapOps : List CacheOp
  /-- The model's own field: the host accesses still to come, in issue order (R62, log 3). -/
  host : List HostEvent
deriving DecidableEq, Repr

/-- Why the machine stops with a fault. The rules' checks exclude both (R58, R59); they name an access to an address
that does not exist. -/
inductive Fault where
  /-- Raised by a payload read that reaches `PAYLOAD_LEN` (R50). Safe: the model stops. -/
  | payloadOutOfBounds
  /-- Raised by a target write at or above `TGT_W · TGT_H` (R52). Safe: the model stops. -/
  | targetOutOfBounds
deriving DecidableEq, Repr

/-- Why a run is not admitted. -/
inductive Refusal where
  /-- Raised by an arm of `exec` for an instruction that has no meaning yet. Safe: the model stops. -/
  | notModelled (mnemonic : String)
  /-- Raised by a PVRTC DECODE that hits a stale bitmap smaller than the region (R287: "refused by a model"). Safe. -/
  | bitmapTooSmall
  /-- Raised by a host read of a `BLK_OUT` entry that has no value (R280, I6: `refuse`). Safe. -/
  | blkOutNoValue
  /-- Raised by a host that names a unit that does not exist (R271). Safe. -/
  | noSuchUnit
  /-- Raised by an access to a unit, other than a read, while its command is in progress (R268, R285), and by a RESET
  while any unit's command is (R280). Safe. -/
  | commandInProgress
  /-- Raised by a host load of a payload whose length does not fit in `PAYLOAD_LEN` (R30). Safe. -/
  | payloadTooLong
deriving DecidableEq, Repr

/-- A decode unit after reset, with the payload memory and the target binding that are the host's and that reset does not
change (R44, R280; log 29). -/
def resetUnit (payload : List Host.Cell) (binding : Nat) : DecodeUnit where
  fmt := none
  flags := none
  cspace := none
  chtype := none
  texW := none
  texH := none
  texDepth := none
  surfaces := none
  faces := none
  mipmaps := none
  payloadLen := none
  infoId := none
  regX := none
  regY := none
  regW := none
  regH := none
  tgtW := none
  tgtH := none
  ctrl := none
  blkIn := Vector.replicate 32 none
  cmd := none
  result := false
  status := 0
  faultInfo := 0
  faultSeen := false
  blkOut := Vector.replicate 32 none
  cursor := none
  payload := payload
  binding := binding
  writes := []
  insertion := none
  completion := none

/-- The machine right after reset (R280), with the spec's default parameters and one unit (log 5), nothing in any
memory (log 6, log 7), target memory 0 bound to unit 0 (log 29) and no host access to come. -/
def State.reset : State where
  params := Config.defaultParams
  unitId := 0
  unit := resetUnit [] 0
  peers := []
  targets := []
  cache := []
  gapOps := []
  host := []

end Sys2Proof.Machine
end

