-- ==== Sys2Proof/Machine/Bits.lean ====
section
/-! DEFINITION. The notation of 00_scope.md R8 to R12: bit fields, byte orders, extension, replication, clamping, and the
raster order in which every rectangle is walked. -/

namespace Sys2Proof.Machine

/-- `v[hi:lo]`, read as an unsigned integer (R8). -/
def bits {n : Nat} (v : BitVec n) (hi lo : Nat) : Nat := (v.toNat >>> lo) % 2 ^ (hi + 1 - lo)

/-- `v[i]` (R8). -/
def bit {n : Nat} (v : BitVec n) (i : Nat) : Nat := bits v i i

/-- Concatenation of two fields, the second `width` bits wide (R8). -/
def catBits (upper width lower : Nat) : Nat := upper * 2 ^ width + lower

/-- `v` with bit `i` set to the bit `b` (used by the rewriting of R186). -/
def putBit {n : Nat} (v : BitVec n) (i b : Nat) : BitVec n :=
  BitVec.ofNat n (v.toNat - bit v i * 2 ^ i + b % 2 * 2 ^ i)

/-- The unsigned value of a byte list, least significant byte first. -/
def leValue : List Byte → Nat
  | [] => 0
  | b :: bs => b.toNat + 256 * leValue bs

/-- `LE_N(bytes)` (R11). -/
def leWord (n : Nat) (bytes : List Byte) : BitVec n := BitVec.ofNat n (leValue bytes)

/-- `BE_N(bytes)` (R11). -/
def beWord (n : Nat) (bytes : List Byte) : BitVec n := BitVec.ofNat n (leValue bytes.reverse)

/-- `b[lo .. lo+n−1]` of a byte list. -/
def byteSlice (bytes : List Byte) (lo n : Nat) : List Byte := (bytes.drop lo).take n

/-- `sext_n(v)`: an `n`-bit field as two's complement (R10). -/
def sext (n v : Nat) : Int := if v < 2 ^ (n - 1) then (v : Int) else (v : Int) - 2 ^ n

/-- `rep_4` (R10). -/
def rep4 (v : Nat) : Nat := (v <<< 4) ||| v

/-- `rep_5` (R10). -/
def rep5 (v : Nat) : Nat := (v <<< 3) ||| (v >>> 2)

/-- `rep_6` (R10). -/
def rep6 (v : Nat) : Nat := (v <<< 2) ||| (v >>> 4)

/-- `rep_7` (R10). -/
def rep7 (v : Nat) : Nat := (v <<< 1) ||| (v >>> 6)

/-- `clamp255` (R10). -/
def clamp255 (v : Int) : Nat := (min 255 (max 0 v)).toNat

/-- `ceil(a / b)` for `b > 0`. -/
def ceilDiv (a b : Nat) : Nat := (a + (b - 1)) / b

/-- A colour inside a datapath: three channels as integers (R9, R12). -/
structure Rgb where
  r : Nat
  g : Nat
  b : Nat
deriving DecidableEq, Repr

/-- An operation applied to each channel of a colour (R12). -/
def Rgb.map (f : Nat → Nat) (c : Rgb) : Rgb := { r := f c.r, g := f c.g, b := f c.b }

/-- An operation applied channel by channel to two colours (R12). -/
def Rgb.zip (f : Nat → Nat → Nat) (c d : Rgb) : Rgb := { r := f c.r d.r, g := f c.g d.g, b := f c.b d.b }

/-- `clamp255(c + d)` for a colour `c` and an integer `d` (R12). -/
def Rgb.addClamp (c : Rgb) (d : Int) : Rgb := c.map fun v => clamp255 ((v : Int) + d)

/-- The pixel of a colour and an alpha, each narrowed to 8 bits. -/
def Rgb.toPixel (c : Rgb) (a : Nat) : Pixel :=
  { r := BitVec.ofNat 8 c.r, g := BitVec.ofNat 8 c.g, b := BitVec.ofNat 8 c.b, a := BitVec.ofNat 8 a }

/-- `p.a<<24 | p.r<<16 | p.g<<8 | p.b` (20_memory.md R52). -/
def Pixel.pack (p : Pixel) : Word32 := p.a ++ p.r ++ p.g ++ p.b

/-- The pixel a packed word stands for (R52 read backwards). -/
def Pixel.unpack (w : Word32) : Pixel :=
  { a := w.extractLsb' 24 8, r := w.extractLsb' 16 8, g := w.extractLsb' 8 8, b := w.extractLsb' 0 8 }

/-- The positions `(x, y)` of the rectangle `x0 ≤ x < x1`, `y0 ≤ y < y1`, row by row (R13). -/
def raster (x0 y0 x1 y1 : Nat) : List (Nat × Nat) :=
  (List.range' y0 (y1 - y0)).flatMap fun y => (List.range' x0 (x1 - x0)).map fun x => (x, y)

/-- Entry `i` of a tile's pixel list; a tile is always read inside its bounds. -/
def tileAt (tile : List Pixel) (i : Nat) : Pixel := tile.getD i transparentBlack

end Sys2Proof.Machine
end

