-- ==== Sys2Proof/Machine/Memory.lean ====
section
/-! DEFINITION. A memory as a list of address and value pairs in one canonical form: addresses strictly rising. An
unlisted address reads as no value, so no entry can equal what an unlisted address reads as (20_memory.md R50, R52;
log 6, log 7). -/

namespace Sys2Proof.Machine

/-- What an address holds: `none` where nothing has been written. -/
def Memory.read {α : Type} (m : List (Nat × α)) (a : Nat) : Option α :=
  match m with
  | [] => none
  | (b, v) :: rest => if a = b then some v else Memory.read rest a

/-- A write of one cell, which keeps the addresses rising. -/
def Memory.write {α : Type} (m : List (Nat × α)) (a : Nat) (v : α) : List (Nat × α) :=
  match m with
  | [] => [(a, v)]
  | (b, w) :: rest =>
    if a < b then (a, v) :: (b, w) :: rest
    else if a = b then (a, v) :: rest
    else (b, w) :: Memory.write rest a v

/-- The canonical form: every address is above `low` and the one before it. -/
def Memory.rising {α : Type} (low : Nat) (m : List (Nat × α)) : Bool :=
  match m with
  | [] => true
  | (b, _) :: rest => decide (low ≤ b) && Memory.rising (b + 1) rest

/-- The canonical form of a memory. -/
def Memory.wf {α : Type} (m : List (Nat × α)) : Bool := Memory.rising 0 m

/-- Writes of consecutive cells from address `a` on. -/
def Memory.writeFrom {α : Type} (m : List (Nat × α)) (a : Nat) (vs : List α) : List (Nat × α) :=
  match vs with
  | [] => m
  | v :: rest => Memory.writeFrom (Memory.write m a v) (a + 1) rest

/-! ### The target memories -/

/-- The target memory with binding number `b`: an unlisted number names a memory in which nothing has been written (R286;
log 7). -/
def targetOf (ts : List (Nat × List (Nat × Word32))) (b : Nat) : List (Nat × Word32) := (Memory.read ts b).getD []

/-- One word write to the target memory `b` (R52). -/
def writeTargetWord (ts : List (Nat × List (Nat × Word32))) (b i : Nat) (v : Word32) : List (Nat × List (Nat × Word32)) :=
  Memory.write ts b (Memory.write (targetOf ts b) i v)

/-- Word writes to the target memory `b`, first to last. -/
def writeTargets (ts : List (Nat × List (Nat × Word32))) (b : Nat) (ws : List (Nat × Word32)) :
    List (Nat × List (Nat × Word32)) :=
  ws.foldl (fun ts w => writeTargetWord ts b w.1 w.2) ts

/-- The canonical form of the target memories: the numbers rise, and each listed memory holds a word and is in canonical
form itself. -/
def targetsWf (ts : List (Nat × List (Nat × Word32))) : Bool :=
  Memory.wf ts && ts.all fun m => Memory.wf m.2 && !m.2.isEmpty

end Sys2Proof.Machine
end

