-- ==== Sys2Proof/Machine/Flags.lean ====
section
/-! DEFINITION. Every value a command writes to `STATUS`, `FAULT_INFO` and `RESULT` (60_exceptions.md R250, R257). -/

namespace Sys2Proof.Machine

/-- The `STATUS` code of a completion (R250). -/
def Completion.status : Completion → Byte
  | .ok => 0
  | .unimplementedPixelFormat => 3
  | .invalidDecodeArguments => 4

/-- The `STATUS` code of an error kind (R250). -/
def ErrorKind.status : ErrorKind → Byte
  | .unsupportedFormat => 2
  | .payloadUnderrun => 5
  | .targetOverrun => 5
  | .illegalWord => 6
  | .illegalBlock => 6
  | .unsetConfig _ => 7

/-- The id of a register in the table of R257. -/
def RegId.code : RegId → Byte
  | .fmt => 1
  | .config .flags => 2
  | .config .cspace => 3
  | .config .chtype => 4
  | .config .texW => 5
  | .config .texH => 6
  | .config .texDepth => 7
  | .config .surfaces => 8
  | .config .faces => 9
  | .config .mipmaps => 10
  | .config .payloadLen => 11
  | .config .infoId => 12
  | .config .regX => 13
  | .config .regY => 14
  | .config .regW => 15
  | .config .regH => 16
  | .config .tgtW => 17
  | .config .tgtH => 18
  | .config .ctrl => 19
  | .blkIn => 20

/-- The `FAULT_INFO` value of an error kind (R250, R254, R256, R257). -/
def ErrorKind.info : ErrorKind → Byte
  | .unsupportedFormat => 0
  | .payloadUnderrun => 1
  | .targetOverrun => 2
  | .illegalWord => 1
  | .illegalBlock => 2
  | .unsetConfig r => r.code

end Sys2Proof.Machine
end

