-- ==== Sys2Proof/Machine/Ops.lean ====
section
/-! DEFINITION. The named operations over a unit and the machine: bounded accesses to the two memories, the latch writes,
the end of a command, and taking an exception (the raise of 60_exceptions.md R253). The unit has no return from an
exception: "The unit has no trap-return command and restores nothing" (R261). -/

namespace Sys2Proof.Machine

/-- Why a command does not run to its completion: it raises, or the model stops. -/
inductive Stop where
  | raise (e : ErrorKind)
  | fault (f : Fault)
  | refuse (r : Refusal)
deriving DecidableEq, Repr

/-- The unit with the cursor at `c` (`pc <- c`, R11). -/
def DecodeUnit.withCursor (u : DecodeUnit) (c : Cursor) : DecodeUnit := { u with cursor := some c }

/-- The unit with the pixel writes `ws` still to be made. -/
def DecodeUnit.withWrites (u : DecodeUnit) (ws : List (Nat × Word32)) : DecodeUnit := { u with writes := ws }

/-- The unit with the insertion `e` still to be made. -/
def DecodeUnit.withInsertion (u : DecodeUnit) (e : Option (Word32 × Bitmap)) : DecodeUnit := { u with insertion := e }

/-- The unit whose command has decided its effects: the insertion `e`, the pixel writes, and then the completion `k`
(R62, R265). -/
def DecodeUnit.pend (u : DecodeUnit) (e : Option (Word32 × Bitmap)) (k : Completion) : DecodeUnit :=
  { u with insertion := e, completion := some k }

/-- The unit with the output latch `o`. -/
def DecodeUnit.withBlkOut (u : DecodeUnit) (o : Vector (Option Pixel) 32) : DecodeUnit := { u with blkOut := o }

/-- The unit with the command `w` in progress (R36). -/
def DecodeUnit.withCmd (u : DecodeUnit) (w : Word32) : DecodeUnit := { u with cmd := some w }

/-- The end of a command: none is in progress, the cursor holds no value, and nothing is left to do (R23, R44; log 16). -/
def DecodeUnit.idle (u : DecodeUnit) : DecodeUnit :=
  { u with cmd := none, cursor := none, writes := [], insertion := none, completion := none }

/-- A completion (R235, R250): `STATUS` and `FAULT_INFO` are written, and `RESULT` where the command is a DECODE. -/
def DecodeUnit.complete (u : DecodeUnit) (result : Option Bool) (c : Completion) : DecodeUnit :=
  { u.idle with
    result := result.getD u.result
    status := c.status
    faultInfo := 0 }

/-- `RAISE(E, v)` (R253): `STATUS`, `FAULT_INFO` and the sticky `FAULT_SEEN` are written, and `RESULT` of a DECODE. -/
def DecodeUnit.raise (u : DecodeUnit) (isDecode : Bool) (e : ErrorKind) : DecodeUnit :=
  { u.idle with
    result := if isDecode then false else u.result
    status := e.status
    faultInfo := e.info
    faultSeen := true }

/-- The machine with its active unit replaced. -/
def State.withUnit (s : State) (u : DecodeUnit) : State := { s with unit := u }

/-- The machine with its target memories replaced. -/
def State.withTargets (s : State) (ts : List (Nat × List (Nat × Word32))) : State := { s with targets := ts }

/-- The machine with its cache device replaced. -/
def State.withCache (s : State) (c : List CacheEntry) : State := { s with cache := c }

/-- The machine with the operations of the next gap replaced. -/
def State.withGapOps (s : State) (ops : List CacheOp) : State := { s with gapOps := ops }

/-- The machine with the host accesses still to come replaced. -/
def State.withHost (s : State) (es : List HostEvent) : State := { s with host := es }

/-- The target memory that the active unit is bound to (R286). -/
def State.target (s : State) : List (Nat × Word32) := targetOf s.targets s.unit.binding

/-- A completion of the active unit's command. -/
def State.complete (s : State) (result : Option Bool) (c : Completion) : State :=
  s.withUnit (s.unit.complete result c)

/-- TAKING AN EXCEPTION: the active unit's command raises (R253). -/
def State.raise (s : State) (isDecode : Bool) (e : ErrorKind) : State :=
  s.withUnit (s.unit.raise isDecode e)

/-- The outcome of a command that started in `s`. A raise is precise: it starts from `s`, in which nothing has been
written yet (R253). -/
def finish (s : State) (isDecode : Bool) (r : Except Stop State) : Host.Outcome State Fault Refusal :=
  match r with
  | .ok t => .next t
  | .error (.raise e) => .next (s.raise isDecode e)
  | .error (.fault f) => .fault f
  | .error (.refuse q) => .refused q

/-- A payload byte: the byte loaded, or the free value of a byte nothing has loaded (log 6). -/
def payloadByte (u : DecodeUnit) (a : Nat) : Byte :=
  (Memory.read u.payload a).getD (Config.unloadedPayloadByte a)

/-- The length of the payload array (R30, R50). -/
def payloadBytes (u : DecodeUnit) : Nat := (u.payloadLen.getD 0).toNat

/-- The size in words of the target array (R33, R52). -/
def targetWords (u : DecodeUnit) : Nat := (u.tgtW.getD 0).toNat * (u.tgtH.getD 0).toNat

/-- `MemRead(addr, n)` (R11, R50): the bytes `addr … addr+n−1`, which must lie inside the payload array (log 10). -/
def memRead (u : DecodeUnit) (addr n : Nat) : Except Stop (List Byte) :=
  if addr + n ≤ payloadBytes u then .ok ((List.range' addr n).map (payloadByte u))
  else .error (.fault .payloadOutOfBounds)

/-- `MemWrite(index, 4, p)` (R11, R52): the pixel `p` to a word that must lie inside the target array (log 10). The write
joins those that the command makes between its issue and its completion (R62). -/
def memWrite (u : DecodeUnit) (index : Nat) (p : Pixel) : Except Stop DecodeUnit :=
  if index < targetWords u then .ok (u.withWrites (u.writes ++ [(index, p.pack)]))
  else .error (.fault .targetOutOfBounds)

/-- A latch with the values of a list written from entry `k` on; a value past entry 31 has no entry. -/
def writeLatch {α : Type} (latch : Vector (Option α) 32) (k : Nat) (vs : List α) : Vector (Option α) 32 :=
  match vs with
  | [] => latch
  | v :: rest => writeLatch (latch.setIfInBounds k (some v)) (k + 1) rest

/-- The output latch after a BLOCK whose tile is `tile`: entry `i` takes pixel `i` of the tile, and the entries past the
tile keep what they held (R40). -/
def blkOutAfter (old : Vector (Option Pixel) 32) (tile : List Pixel) : Vector (Option Pixel) 32 := writeLatch old 0 tile

end Sys2Proof.Machine
end

