-- ==== Sys2Proof/Machine/Cache.lean ====
section
/-! DEFINITION. The cache device (60_exceptions.md R262 to R266): a list of entries, least recently used first. Each
operation is atomic (R64, R265). -/

namespace Sys2Proof.Machine

/-- The entry with key `k`, if there is one. -/
def cacheFind (c : List CacheEntry) (k : Word32) : Option CacheEntry := c.find? fun e => e.key == k

/-- The cache without the entry with key `k`. -/
def cacheRemove (c : List CacheEntry) (k : Word32) : List CacheEntry := c.eraseP fun e => e.key == k

/-- `CacheLookup(k)` (R262): a hit moves the entry to the most recently used end; a miss changes nothing. -/
def cacheLookup (c : List CacheEntry) (k : Word32) : Option Bitmap × List CacheEntry :=
  match cacheFind c k with
  | some e => (some e.bitmap, cacheRemove c k ++ [e])
  | none => (none, c)

/-- `CacheInsert(k, bm)` (R263): a present key is replaced; else a full cache evicts its least recently used entry. -/
def cacheInsert (c : List CacheEntry) (k : Word32) (bm : Bitmap) : List CacheEntry :=
  match cacheFind c k with
  | some _ => cacheRemove c k ++ [{ key := k, bitmap := bm }]
  | none => (if c.length = Config.cacheCap then c.drop 1 else c) ++ [{ key := k, bitmap := bm }]

/-- `CacheFlush()` (R264). -/
def cacheFlush (_c : List CacheEntry) : List CacheEntry := []

/-- One operation of the cache device as it changes the entries. -/
def cacheApply (c : List CacheEntry) (op : CacheOp) : List CacheEntry :=
  match op with
  | .lookup k => (cacheLookup c k).2
  | .insert k bm => cacheInsert c k bm
  | .flush => cacheFlush c

/-- The operations of other units, in their order (R265). -/
def cacheApplyAll (c : List CacheEntry) (ops : List CacheOp) : List CacheEntry := ops.foldl cacheApply c

/-- `CACHE_KEYS` (R266). -/
def cacheKeys (c : List CacheEntry) : List Word32 := c.map CacheEntry.key

/-- `CACHE_COUNT`, 4 bits (R266). -/
def cacheCount (c : List CacheEntry) : BitVec 4 := BitVec.ofNat 4 c.length

/-- The pixel `(x, y)` of a bitmap, if the bitmap has one (R42, R287). -/
def Bitmap.pixel (bm : Bitmap) (x y : Nat) : Option Pixel :=
  if x < bm.width ∧ y < bm.height then bm.pixels[y * bm.width + x]? else none

end Sys2Proof.Machine
end

