-- ==== Sys2Proof/Machine/Operands.lean ====
section
/-! DEFINITION. Where a command takes its operands from: the format tag (43_sequencer.md R221, R234), the configuration
registers in the order they are read (R220, 60_exceptions.md R257), the BLOCK latch (30_encoding.md R74), and the clipped
and aligned rectangles (R223 to R225). -/

namespace Sys2Proof.Machine

/-- The DXT formats (R72). -/
inductive DxtFormat where
  | dxt1 | dxt3 | dxt5
deriving DecidableEq, Repr

/-- The ETC formats (R72). -/
inductive EtcFormat where
  | etc1 | rgb | rgba | rgbA1
deriving DecidableEq, Repr

/-- The PVRTC formats (R180). -/
inductive PvrtcFormat where
  | rgb2 | rgba2 | rgb4 | rgba4
deriving DecidableEq, Repr

/-- The classes of R221, a decoder's class with its format. -/
inductive FormatClass where
  | dxt (f : DxtFormat)
  | etc (f : EtcFormat)
  | pvrtc (f : PvrtcFormat)
  | fallback
  | unknown
deriving DecidableEq, Repr

/-- The block size `B` of a DXT format (R72). -/
def DxtFormat.blockBytes : DxtFormat → Nat
  | .dxt1 => 8
  | .dxt3 => 16
  | .dxt5 => 16

/-- The block size `B` of an ETC format (R72). -/
def EtcFormat.blockBytes : EtcFormat → Nat
  | .etc1 => 8
  | .rgb => 8
  | .rgba => 16
  | .rgbA1 => 8

/-- `WW`, the width in pixels of a PVRTC word (R180). -/
def PvrtcFormat.wordWidth : PvrtcFormat → Nat
  | .rgb2 => 8
  | .rgba2 => 8
  | .rgb4 => 4
  | .rgba4 => 4

/-- The format with a datapath that a code names (R72). -/
def datapathOf (code : Nat) : Option FormatClass :=
  match code with
  | 0 => some (.pvrtc .rgb2)
  | 1 => some (.pvrtc .rgba2)
  | 2 => some (.pvrtc .rgb4)
  | 3 => some (.pvrtc .rgba4)
  | 6 => some (.etc .etc1)
  | 7 => some (.dxt .dxt1)
  | 9 => some (.dxt .dxt3)
  | 11 => some (.dxt .dxt5)
  | 22 => some (.etc .rgb)
  | 23 => some (.etc .rgba)
  | 24 => some (.etc .rgbA1)
  | _ => none

/-- Whether a code is in `KNOWN_FORMATS` (R72). -/
def isKnown (p : Config.Params) (code : Nat) : Bool := p.knownFormats.contains code

/-- `CLASS(FMT)` (R221). -/
def classOf (p : Config.Params) (fmt : Word64) : FormatClass :=
  if bits fmt 63 32 ≠ 0 then .fallback
  else if isKnown p (bits fmt 31 0) = false then .unknown
  else
    match datapathOf (bits fmt 31 0) with
    | some (.etc f) => if p.etcRouted then .etc f else .fallback
    | some c => c
    | none => .fallback

/-- The datapath a BLOCK of `fmt` runs, or none where R234 raises `IllegalCommand(2)`. It does not depend on
`ETC_ROUTED`. -/
def blockClassOf (p : Config.Params) (fmt : Word64) : Option FormatClass :=
  if bits fmt 63 32 ≠ 0 then none
  else if isKnown p (bits fmt 31 0) = false then none
  else datapathOf (bits fmt 31 0)

/-- What a 32-bit configuration register holds, `none` while it is unwritten (R44). -/
def DecodeUnit.config (u : DecodeUnit) : ConfigReg → Option Word32
  | .flags => u.flags
  | .cspace => u.cspace
  | .chtype => u.chtype
  | .texW => u.texW
  | .texH => u.texH
  | .texDepth => u.texDepth
  | .surfaces => u.surfaces
  | .faces => u.faces
  | .mipmaps => u.mipmaps
  | .payloadLen => u.payloadLen
  | .infoId => u.infoId
  | .regX => u.regX
  | .regY => u.regY
  | .regW => u.regW
  | .regH => u.regH
  | .tgtW => u.tgtW
  | .tgtH => u.tgtH
  | .ctrl => u.ctrl

/-- A host write of a 32-bit configuration register (R24 to R34). -/
def DecodeUnit.setConfig (u : DecodeUnit) (r : ConfigReg) (v : Word32) : DecodeUnit :=
  match r with
  | .flags => { u with flags := some v }
  | .cspace => { u with cspace := some v }
  | .chtype => { u with chtype := some v }
  | .texW => { u with texW := some v }
  | .texH => { u with texH := some v }
  | .texDepth => { u with texDepth := some v }
  | .surfaces => { u with surfaces := some v }
  | .faces => { u with faces := some v }
  | .mipmaps => { u with mipmaps := some v }
  | .payloadLen => { u with payloadLen := some v }
  | .infoId => { u with infoId := some v }
  | .regX => { u with regX := some v }
  | .regY => { u with regY := some v }
  | .regW => { u with regW := some v }
  | .regH => { u with regH := some v }
  | .tgtW => { u with tgtW := some v }
  | .tgtH => { u with tgtH := some v }
  | .ctrl => { u with ctrl := some v }

/-- A command's read of a configuration register, which raises `UnsetConfig` where it is unwritten (R257, R281). -/
def readConfig (u : DecodeUnit) (r : ConfigReg) : Except Stop Word32 :=
  match u.config r with
  | some v => .ok v
  | none => .error (.raise (.unsetConfig (.config r)))

/-- A command's read of the format: its value is that of the command's own dispatch word (log 2), and the read raises
`UnsetConfig(FMT)` where the host has not written `FMT` (R257). -/
def readFmt (u : DecodeUnit) : Except Stop Unit :=
  match u.fmt with
  | some _ => .ok ()
  | none => .error (.raise (.unsetConfig .fmt))

/-- The registers the DECODE entry reads once the format is known (R220), as integers (R9). -/
structure Geometry where
  texW : Nat
  texH : Nat
  regX : Int
  regY : Int
  regW : Int
  regH : Int
  tgtW : Nat
  tgtH : Nat
deriving DecidableEq, Repr

/-- The reads of R220 in their order; the region registers are signed (R32). -/
def readGeometry (u : DecodeUnit) : Except Stop Geometry := do
  let texW ← readConfig u .texW
  let texH ← readConfig u .texH
  let regX ← readConfig u .regX
  let regY ← readConfig u .regY
  let regW ← readConfig u .regW
  let regH ← readConfig u .regH
  let tgtW ← readConfig u .tgtW
  let tgtH ← readConfig u .tgtH
  return {
    texW := texW.toNat, texH := texH.toNat
    regX := regX.toInt, regY := regY.toInt, regW := regW.toInt, regH := regH.toInt
    tgtW := tgtW.toNat, tgtH := tgtH.toNat }

/-- A rectangle of pixels `x0 ≤ x < x1`, `y0 ≤ y < y1`. -/
structure Rect where
  x0 : Nat
  y0 : Nat
  x1 : Nat
  y1 : Nat
deriving DecidableEq, Repr

/-- `CLIP()` (R223, R224): the requested region intersected with the texture, none where that is empty. The sums are
unbounded integers. -/
def clip (g : Geometry) : Option Rect :=
  let cx0 := max g.regX 0
  let cx1 := min (g.regX + g.regW) (g.texW : Int)
  let cy0 := max g.regY 0
  let cy1 := min (g.regY + g.regH) (g.texH : Int)
  if cx1 ≤ cx0 ∨ cy1 ≤ cy0 then none
  else some { x0 := cx0.toNat, y0 := cy0.toNat, x1 := cx1.toNat, y1 := cy1.toNat }

/-- The aligned rectangle of R225, in blocks of 4 by 4 pixels: `ax0/4`, `ay0/4`, `ax1/4`, `ay1/4`. -/
def alignedBlocks (r : Rect) : Rect where
  x0 := r.x0 / Config.tileSize
  y0 := r.y0 / Config.tileSize
  x1 := ceilDiv r.x1 Config.tileSize
  y1 := ceilDiv r.y1 Config.tileSize

/-- Whether a position lies in a rectangle. -/
def Rect.contains (r : Rect) (x y : Nat) : Bool :=
  decide (r.x0 ≤ x) && decide (x < r.x1) && decide (r.y0 ≤ y) && decide (y < r.y1)

/-- The bytes of `BLK_IN` a BLOCK of a datapath uses (R74, R257). -/
def FormatClass.latchBytes : FormatClass → Nat
  | .dxt f => f.blockBytes
  | .etc f => f.blockBytes
  | .pvrtc _ => 32
  | .fallback => 0
  | .unknown => 0

/-- The first `n` bytes of `BLK_IN`, which raises `UnsetConfig(BLK_IN)` where one of them is unwritten (R257). -/
def readLatch (u : DecodeUnit) (n : Nat) : Except Stop (List Byte) :=
  match (u.blkIn.toList.take n).mapM id with
  | some bytes => .ok bytes
  | none => .error (.raise (.unsetConfig .blkIn))

/-- `CTRL.TGT_PRESENT` and `CTRL.REG_PRESENT` are both 1 (R34, R222). -/
def argumentsPresent (ctrl : Word32) : Bool := bit ctrl 0 == 1 && bit ctrl 1 == 1

end Sys2Proof.Machine
end

