-- ==== Sys2Proof/Machine/Dxt.lean ====
section
/-! DEFINITION. The DXT datapath: `DXT_TILE` (40_dxt.md R110 to R119) over the block layouts of 30_encoding.md R79 to
R82. -/

namespace Sys2Proof.Machine

/-- Whether a palette entry may be transparent: the tags `OPAQUE` and `CLEAR` (R112). -/
inductive AlphaTag where
  | solid
  | clear
deriving DecidableEq, Repr

/-- `U565(v)` (R79, R111). -/
def u565 (v : BitVec 16) : Rgb := { r := rep5 (bits v 15 11), g := rep6 (bits v 10 5), b := rep5 (bits v 4 0) }

/-- The colour palette `PAL[0..3]` (R112, R113). -/
def dxtPalette (c0v c1v : BitVec 16) : List (Rgb × AlphaTag) :=
  let c0 := u565 c0v
  let c1 := u565 c1v
  if c1v.toNat < c0v.toNat then
    [(c0, .solid), (c1, .solid),
     (Rgb.zip (fun p q => (2 * p + q) / 3) c0 c1, .solid),
     (Rgb.zip (fun p q => (p + 2 * q) / 3) c0 c1, .solid)]
  else
    [(c0, .solid), (c1, .solid),
     (Rgb.zip (fun p q => (p + q) / 2) c0 c1, .solid),
     ({ r := 0, g := 0, b := 0 }, .clear)]

/-- The entry of the palette a 2-bit code selects (R114). -/
def dxtEntry (c0v c1v : BitVec 16) (code : Nat) : Rgb × AlphaTag :=
  (dxtPalette c0v c1v).getD code ({ r := 0, g := 0, b := 0 }, .clear)

/-- The DXT5 alpha palette `APAL[k]` (R115). -/
def dxt5Alpha (a0 a1 k : Nat) : Nat :=
  if k = 0 then a0
  else if k = 1 then a1
  else if a1 < a0 then ((8 - k) * a0 + (k - 1) * a1) / 7
  else if k = 6 then 0
  else if k = 7 then 255
  else ((6 - k) * a0 + (k - 1) * a1) / 5

/-- The colour block of a DXT block: bytes 0 to 7 of DXT1, bytes 8 to 15 of DXT3 and DXT5 (R110). -/
def dxtColourBlock (f : DxtFormat) (b : List Byte) : List Byte :=
  match f with
  | .dxt1 => byteSlice b 0 8
  | .dxt3 => byteSlice b 8 8
  | .dxt5 => byteSlice b 8 8

/-- The palette entry of pixel `i` of a colour block (R80, R114). -/
def dxtColour (cb : List Byte) (i : Nat) : Rgb × AlphaTag :=
  dxtEntry (leWord 16 (byteSlice cb 0 2)) (leWord 16 (byteSlice cb 2 2))
    (bits (leWord 32 (byteSlice cb 4 4)) (2 * i + 1) (2 * i))

/-- The alpha of pixel `i` of a DXT3 block (R81, R116). -/
def dxt3PixelAlpha (b : List Byte) (i : Nat) : Nat :=
  rep4 (bits (leWord 64 (byteSlice b 0 8)) (4 * i + 3) (4 * i))

/-- The alpha of pixel `i` of a DXT5 block (R82, R117). -/
def dxt5PixelAlpha (b : List Byte) (i : Nat) : Nat :=
  dxt5Alpha (leValue (byteSlice b 0 1)) (leValue (byteSlice b 1 1))
    (bits (leWord 48 (byteSlice b 2 6)) (3 * i + 2) (3 * i))

/-- The pixel of a palette entry (R118). -/
def dxtCompose (f : DxtFormat) (b : List Byte) (i : Nat) (entry : Rgb × AlphaTag) : Pixel :=
  match f with
  | .dxt1 => match entry.2 with
    | .solid => entry.1.toPixel 255
    | .clear => transparentBlack
  | .dxt3 => entry.1.toPixel (dxt3PixelAlpha b i)
  | .dxt5 => entry.1.toPixel (dxt5PixelAlpha b i)

/-- Pixel `i = 4·y + x` of a DXT block (R119). -/
def dxtPixel (f : DxtFormat) (b : List Byte) (i : Nat) : Pixel :=
  dxtCompose f b i (dxtColour (dxtColourBlock f b) i)

/-- `DXT_TILE(fmt, b)` (R119): the 16 pixels of a block, row by row. -/
def dxtTile (f : DxtFormat) (b : List Byte) : List Pixel := (List.range 16).map (dxtPixel f b)

end Sys2Proof.Machine
end

