-- ==== Sys2Proof/Machine/Etc.lean ====
section
/-! DEFINITION. The ETC datapath: `ETC_TILE` (41_etc.md R140 to R159) over the block layouts of 30_encoding.md R83 to
R91. -/

namespace Sys2Proof.Machine

/-- The colour modes of an ETC block (R142). -/
inductive EtcMode where
  | individual | differential | t | h | planar
deriving DecidableEq, Repr

/-- Entry `j` of row `i` of a table of signed values. -/
def tableAt (table : List (List Int)) (i j : Nat) : Int := (table.getD i []).getD j 0

/-- `ETC_MOD[cw][idx]`, the intensity modifiers (R141). -/
def etcMod (cw idx : Nat) : Int :=
  tableAt
    [[2, 8, -2, -8], [5, 17, -5, -17], [9, 29, -9, -29], [13, 42, -13, -42],
     [18, 60, -18, -60], [24, 80, -24, -80], [33, 106, -33, -106], [47, 183, -47, -183]] cw idx

/-- `ETC_MOD_PT[cw][idx]`: the punch-through form, whose indices 0 and 2 add nothing (R154). -/
def etcModPunch (cw idx : Nat) : Int := if idx = 1 ∨ idx = 3 then etcMod cw idx else 0

/-- `ETC_DIST[di]` (R147). -/
def etcDist (di : Nat) : Int := ([3, 6, 11, 16, 23, 32, 41, 64] : List Int).getD di 0

/-- `EAC_MOD[t][k]` (R155). -/
def eacMod (t k : Nat) : Int :=
  tableAt
    [[-3, -6, -9, -15, 2, 5, 8, 14], [-3, -7, -10, -13, 2, 6, 9, 12], [-2, -5, -8, -13, 1, 4, 7, 12],
     [-2, -4, -6, -13, 1, 3, 5, 12], [-3, -6, -8, -12, 2, 5, 7, 11], [-3, -7, -9, -11, 2, 6, 8, 10],
     [-4, -7, -8, -11, 3, 6, 7, 10], [-3, -5, -8, -11, 2, 4, 7, 10], [-2, -6, -8, -10, 1, 5, 7, 9],
     [-2, -5, -8, -10, 1, 4, 7, 9], [-2, -4, -8, -10, 1, 3, 7, 9], [-2, -5, -7, -10, 1, 4, 6, 9],
     [-3, -4, -7, -10, 2, 3, 6, 9], [-1, -2, -3, -10, 0, 1, 2, 9], [-4, -6, -8, -9, 3, 5, 7, 8],
     [-3, -5, -7, -9, 2, 4, 6, 8]] t k

/-- The colour word `W` of a block (R140). -/
def etcColourWord (f : EtcFormat) (b : List Byte) : Word64 :=
  match f with
  | .rgba => beWord 64 (byteSlice b 8 8)
  | .etc1 => beWord 64 (byteSlice b 0 8)
  | .rgb => beWord 64 (byteSlice b 0 8)
  | .rgbA1 => beWord 64 (byteSlice b 0 8)

/-- The alpha word `A` of an ETC2_RGBA block (R140). -/
def etcAlphaWord (b : List Byte) : Word64 := beWord 64 (byteSlice b 0 8)

/-- Whether a differential sum leaves `[0, 31]` (R86, R142). -/
def sumOverflows (base delta : Nat) : Bool :=
  decide ((base : Int) + sext 3 delta < 0) || decide (31 < (base : Int) + sext 3 delta)

/-- `ETC_MODE(fmt, W)` (R142): ETC2_RGB_A1 is always on the differential path (R90). -/
def etcMode (f : EtcFormat) (w : Word64) : EtcMode :=
  if f ≠ .rgbA1 ∧ bit w 33 = 0 then .individual
  else if sumOverflows (bits w 63 59) (bits w 58 56) then .t
  else if sumOverflows (bits w 55 51) (bits w 50 48) then .h
  else if sumOverflows (bits w 47 43) (bits w 42 40) then .planar
  else .differential

/-- `idx(j)`, the 2-bit index of pixel `j = 4·x + y` (R83). -/
def etcIndex (w : Word64) (j : Nat) : Nat := bit w (16 + j) * 2 + bit w j

/-- Whether pixel `(x, y)` belongs to sub-block 2 (R143). -/
def inSecondSubBlock (w : Word64) (x y : Nat) : Bool := if bit w 32 = 0 then decide (2 ≤ x) else decide (2 ≤ y)

/-- The base colours of the individual mode (R84, R144). -/
def individualBase (w : Word64) (second : Bool) : Rgb :=
  if second then { r := rep4 (bits w 59 56), g := rep4 (bits w 51 48), b := rep4 (bits w 43 40) }
  else { r := rep4 (bits w 63 60), g := rep4 (bits w 55 52), b := rep4 (bits w 47 44) }

/-- A channel of the second base colour of the differential mode (R145). -/
def differentialSum (base delta : Nat) : Nat := ((base : Int) + sext 3 delta).toNat

/-- The base colours of the differential mode (R85, R145). -/
def differentialBase (w : Word64) (second : Bool) : Rgb :=
  if second then
    { r := rep5 (differentialSum (bits w 63 59) (bits w 58 56))
      g := rep5 (differentialSum (bits w 55 51) (bits w 50 48))
      b := rep5 (differentialSum (bits w 47 43) (bits w 42 40)) }
  else { r := rep5 (bits w 63 59), g := rep5 (bits w 55 51), b := rep5 (bits w 47 43) }

/-- The table selector of a sub-block: `cw1` or `cw2` (R84, R85). -/
def tableSelector (w : Word64) (second : Bool) : Nat := if second then bits w 36 34 else bits w 39 37

/-- The two colours of a T block (R87, R148). -/
def tColour (w : Word64) (second : Bool) : Rgb :=
  if second then { r := rep4 (bits w 47 44), g := rep4 (bits w 43 40), b := rep4 (bits w 39 36) }
  else
    { r := rep4 (catBits (bits w 60 59) 2 (bits w 57 56)), g := rep4 (bits w 55 52), b := rep4 (bits w 51 48) }

/-- The distance of a T block (R87, R148). -/
def tDistance (w : Word64) : Int := etcDist (catBits (bits w 35 34) 1 (bit w 32))

/-- `PAINT[idx]` of a T block (R150). -/
def tPaint (w : Word64) (idx : Nat) : Rgb :=
  if idx = 0 then tColour w false
  else if idx = 1 then (tColour w true).addClamp (tDistance w)
  else if idx = 2 then tColour w true
  else (tColour w true).addClamp (-tDistance w)

/-- The 4-bit fields of an H block's two colours (R88). -/
def hFields (w : Word64) (second : Bool) : Rgb :=
  if second then { r := bits w 46 43, g := bits w 42 39, b := bits w 38 35 }
  else
    { r := bits w 62 59, g := catBits (bits w 58 56) 1 (bit w 52), b := catBits (bit w 51) 3 (bits w 49 47) }

/-- The two colours of an H block (R149). -/
def hColour (w : Word64) (second : Bool) : Rgb := (hFields w second).map rep4

/-- The packed value of an H block's colour that the distance index compares (R151). -/
def hPacked (w : Word64) (second : Bool) : Nat :=
  let c := hFields w second
  c.r * 256 + c.g * 16 + c.b

/-- The distance of an H block: the comparison supplies the low bit of the index (R151). -/
def hDistance (w : Word64) : Int :=
  etcDist (bit w 34 * 4 + bit w 32 * 2 + if hPacked w true ≤ hPacked w false then 1 else 0)

/-- `PAINT[idx]` of an H block (R151). -/
def hPaint (w : Word64) (idx : Nat) : Rgb :=
  if idx = 0 then (hColour w false).addClamp (hDistance w)
  else if idx = 1 then (hColour w false).addClamp (-hDistance w)
  else if idx = 2 then (hColour w true).addClamp (hDistance w)
  else (hColour w true).addClamp (-hDistance w)

/-- The origin corner `O` of a planar block (R89, R152). -/
def planarOrigin (w : Word64) : Rgb where
  r := rep6 (bits w 62 57)
  g := rep7 (catBits (bit w 56) 6 (bits w 54 49))
  b := rep6 (catBits (catBits (bit w 48) 2 (bits w 44 43)) 3 (bits w 41 39))

/-- The horizontal corner `H` of a planar block (R89, R152). -/
def planarHorizontal (w : Word64) : Rgb where
  r := rep6 (catBits (bits w 38 34) 1 (bit w 32))
  g := rep7 (bits w 31 25)
  b := rep6 (bits w 24 19)

/-- The vertical corner `V` of a planar block (R89, R152). -/
def planarVertical (w : Word64) : Rgb where
  r := rep6 (bits w 18 13)
  g := rep7 (bits w 12 6)
  b := rep6 (bits w 5 0)

/-- A channel of a planar pixel (R153). `>> 2` is floor division by 4 (R9). -/
def planarChannel (x y o h v : Nat) : Nat :=
  clamp255 (((x : Int) * ((h : Int) - o) + (y : Int) * ((v : Int) - o) + 4 * (o : Int) + 2) / 4)

/-- The colour of pixel `(x, y)` of a planar block (R153). -/
def planarColour (w : Word64) (x y : Nat) : Rgb :=
  let o := planarOrigin w
  let h := planarHorizontal w
  let v := planarVertical w
  { r := planarChannel x y o.r h.r v.r, g := planarChannel x y o.g h.g v.g, b := planarChannel x y o.b h.b v.b }

/-- Whether a pixel of an ETC2_RGB_A1 block whose `opaque` bit is 0 takes the punch-through rules (R154). -/
def punchThrough (f : EtcFormat) (w : Word64) : Bool := f == .rgbA1 && bit w 33 == 0

/-- The modifier of a sub-block pixel (R146, R154). -/
def etcModifier (f : EtcFormat) (w : Word64) (cw idx : Nat) : Int :=
  if punchThrough f w then etcModPunch cw idx else etcMod cw idx

/-- The colour of pixel `(x, y)` of a colour block in the mode `m` (R146, R150, R151, R153). -/
def etcColour (f : EtcFormat) (w : Word64) (m : EtcMode) (x y : Nat) : Rgb :=
  let idx := etcIndex w (4 * x + y)
  let second := inSecondSubBlock w x y
  match m with
  | .individual => (individualBase w second).addClamp (etcModifier f w (tableSelector w second) idx)
  | .differential => (differentialBase w second).addClamp (etcModifier f w (tableSelector w second) idx)
  | .t => tPaint w idx
  | .h => hPaint w idx
  | .planar => planarColour w x y

/-- The alpha of pixel `(x, y)` of an EAC alpha word (R91, R156). -/
def eacAlpha (a : Word64) (x y : Nat) : Nat :=
  let j := 4 * x + y
  clamp255 ((bits a 63 56 : Int) + (bits a 55 52 : Int) * eacMod (bits a 51 48) (bits a (47 - 3 * j) (45 - 3 * j)))

/-- The alpha of a pixel that is not punched through (R157). -/
def etcAlpha (f : EtcFormat) (b : List Byte) (x y : Nat) : Nat :=
  match f with
  | .rgba => eacAlpha (etcAlphaWord b) x y
  | .etc1 => 255
  | .rgb => 255
  | .rgbA1 => 255

/-- Whether pixel `(x, y)` is punched through: index 2 in any mode but planar (R154). -/
def punchedOut (f : EtcFormat) (w : Word64) (x y : Nat) : Bool :=
  punchThrough f w && etcMode f w != .planar && etcIndex w (4 * x + y) == 2

/-- Pixel `(x, y)` of an ETC block (R159). -/
def etcPixel (f : EtcFormat) (b : List Byte) (x y : Nat) : Pixel :=
  let w := etcColourWord f b
  if punchedOut f w x y then transparentBlack
  else (etcColour f w (etcMode f w) x y).toPixel (etcAlpha f b x y)

/-- `ETC_TILE(fmt, b)` (R159): the 16 pixels of a block, row by row. -/
def etcTile (f : EtcFormat) (b : List Byte) : List Pixel :=
  (List.range 16).map fun i => etcPixel f b (i % 4) (i / 4)

end Sys2Proof.Machine
end

