-- ==== Sys2Proof/Machine/Pvrtc.lean ====
section
/-! DEFINITION. The PVRTC datapath: the quad (42_pvrtc.md R180 to R193) over the word layout of 30_encoding.md R92 to R96,
the twiddled word address (R195) and the image pass (R194, R196). -/

namespace Sys2Proof.Machine

/-- The two halves of a PVRTC word (R92). -/
structure PvrtcWord where
  mod : Word32
  col : Word32
deriving DecidableEq, Repr

/-- The four words of a quad (R183). -/
structure Quad where
  p : PvrtcWord
  q : PvrtcWord
  r : PvrtcWord
  s : PvrtcWord
deriving DecidableEq, Repr

/-- A word colour: 5-bit red, green and blue and a 4-bit alpha (R181, R182), or an upscaled one (R185). -/
structure WordColour where
  r : Nat
  g : Nat
  b : Nat
  a : Nat
deriving DecidableEq, Repr

/-- The interpolation modes that `MODM` holds (R186): 0 stored, 1 both, 2 horizontal, 3 vertical. -/
inductive ModMode where
  | stored | both | horizontal | vertical
deriving DecidableEq, Repr

/-- A word from its 8 bytes: modulation half first, each half little-endian (R92). -/
def pvrtcWord (b : List Byte) : PvrtcWord where
  mod := leWord 32 (byteSlice b 0 4)
  col := leWord 32 (byteSlice b 4 4)

/-- `MFLAG` (R92). -/
def PvrtcWord.flag (w : PvrtcWord) : Nat := bit w.col 0

/-- `COLA(COL)` (R93, R181). -/
def colourA (col : Word32) : WordColour :=
  let c := bits col 15 0
  if bits col 15 15 = 1 then
    { r := bits col 14 10, g := bits col 9 5, b := (c &&& 0x1E) ||| ((c &&& 0x1E) >>> 4), a := 15 }
  else
    { r := ((c &&& 0xF00) >>> 7) ||| ((c &&& 0xF00) >>> 11)
      g := ((c &&& 0xF0) >>> 3) ||| ((c &&& 0xF0) >>> 7)
      b := ((c &&& 0xE) <<< 1) ||| ((c &&& 0xE) >>> 2)
      a := (c &&& 0x7000) >>> 11 }

/-- `COLB(COL)` (R94, R182). -/
def colourB (col : Word32) : WordColour :=
  let c := col.toNat
  if bits col 31 31 = 1 then
    { r := bits col 30 26, g := bits col 25 21, b := bits col 20 16, a := 15 }
  else
    { r := ((c &&& 0x0F000000) >>> 23) ||| ((c &&& 0x0F000000) >>> 27)
      g := ((c &&& 0x00F00000) >>> 19) ||| ((c &&& 0x00F00000) >>> 23)
      b := ((c &&& 0x000F0000) >>> 15) ||| ((c &&& 0x000F0000) >>> 19)
      a := (c &&& 0x70000000) >>> 27 }

/-- `v` of R185: the bilinear blend of one channel, times `4 · WW`. -/
def bilinear (ww p q r s tx ty : Nat) : Nat :=
  (ww - tx) * (4 - ty) * p + tx * (4 - ty) * q + (ww - tx) * ty * r + tx * ty * s

/-- The final step of R185 for red, green and blue. -/
def widenColour (ww v : Nat) : Nat := if ww = 8 then (v >>> 7) + (v >>> 2) else (v >>> 6) + (v >>> 1)

/-- The final step of R185 for alpha. -/
def widenAlpha (ww v : Nat) : Nat := if ww = 8 then (v >>> 5) + (v >>> 1) else (v >>> 4) + v

/-- `UPA` or `UPB` at tile pixel `(tx, ty)` (R185). -/
def upscale (ww : Nat) (p q r s : WordColour) (tx ty : Nat) : WordColour where
  r := widenColour ww (bilinear ww p.r q.r r.r s.r tx ty)
  g := widenColour ww (bilinear ww p.g q.g r.g s.g tx ty)
  b := widenColour ww (bilinear ww p.b q.b r.b s.b tx ty)
  a := widenAlpha ww (bilinear ww p.a q.a r.a s.a tx ty)

/-- Whether a 2bpp position holds a stored value when `MFLAG = 1`: `(x XOR y) & 1 = 0` (R96, R186). -/
def isStored (x y : Nat) : Bool := (x ^^^ y) % 2 == 0

/-- `k` of R186: how many stored positions of the 8 by 4 word come before the stored position `(x, y)` in raster
order. -/
def storedIndex (x y : Nat) : Nat := 4 * y + x / 2

/-- The interpolation mode of a 2bpp word (R186). -/
def modMode2bpp (w : PvrtcWord) : ModMode :=
  if w.flag = 0 then .stored
  else if bit w.mod 0 = 0 then .both
  else if bit w.mod 20 = 1 then .vertical
  else .horizontal

/-- `MOD'`: the modulation half of a word with `MFLAG = 1` after the rewriting of R186. -/
def rewrittenMod (m : Word32) : Word32 :=
  let m1 := if bit m 0 = 1 then putBit m 20 (bit m 21) else m
  putBit m1 0 (bit m1 1)

/-- `MODV` of a 2bpp word at its pixel `(x, y)` (R96, R186). -/
def modValue2bpp (w : PvrtcWord) (x y : Nat) : Nat :=
  if w.flag = 0 then
    if bit w.mod (8 * y + x) = 1 then 3 else 0
  else if isStored x y then
    let k := storedIndex x y
    bits (rewrittenMod w.mod) (2 * k + 1) (2 * k)
  else 0

/-- `MODV` of a 4bpp word at its pixel `(x, y)`: the final weight, 14 standing for punch-through (R95, R187). -/
def modValue4bpp (w : PvrtcWord) (x y : Nat) : Nat :=
  let i := 4 * y + x
  let table : List Nat := if w.flag = 1 then [0, 4, 14, 8] else [0, 3, 5, 8]
  table.getD (bits w.mod (2 * i + 1) (2 * i)) 0

/-- The word of a quad that covers grid position `(gx, gy)` (R184). -/
def gridWord (ww : Nat) (q : Quad) (gx gy : Nat) : PvrtcWord :=
  if gy < 4 then (if gx < ww then q.p else q.q) else (if gx < ww then q.r else q.s)

/-- `REP[v]` (R188). -/
def repWeight (v : Nat) : Nat := ([0, 3, 5, 8] : List Nat).getD v 0

/-- `REP[MODV[gx][gy]]` of a 2bpp quad (R186, R188). -/
def weight2bpp (q : Quad) (gx gy : Nat) : Nat :=
  repWeight (modValue2bpp (gridWord 8 q gx gy) (gx % 8) (gy % 4))

/-- `GETMOD(gx, gy)` (R188). -/
def getMod (ww : Nat) (q : Quad) (gx gy : Nat) : Nat :=
  if ww = 4 then modValue4bpp (gridWord 4 q gx gy) (gx % 4) (gy % 4)
  else
    let n := weight2bpp q gx (gy - 1)
    let s := weight2bpp q gx (gy + 1)
    let w := weight2bpp q (gx - 1) gy
    let e := weight2bpp q (gx + 1) gy
    if isStored gx gy then weight2bpp q gx gy
    else
      match modMode2bpp (gridWord 8 q gx gy) with
      | .stored => weight2bpp q gx gy
      | .both => (n + s + w + e + 2) / 4
      | .horizontal => (w + e + 1) / 2
      | .vertical => (n + s + 1) / 2

/-- One channel of the blend (R189). -/
def blendChannel (a b m : Nat) : Nat := (a * (8 - m) + b * m) >>> 3

/-- The blend of R189: a weight above 10 is punch-through with the weight less 10. -/
def blend (a b : WordColour) (m : Nat) : Pixel :=
  let pt := decide (10 < m)
  let w := if pt then m - 10 else m
  { r := BitVec.ofNat 8 (blendChannel a.r b.r w)
    g := BitVec.ofNat 8 (blendChannel a.g b.g w)
    b := BitVec.ofNat 8 (blendChannel a.b b.b w)
    a := if pt then 0 else BitVec.ofNat 8 (blendChannel a.a b.a w) }

/-- Pixel `(tx, ty)` of a quad tile (R191). -/
def quadPixel (ww : Nat) (q : Quad) (tx ty : Nat) : Pixel :=
  blend
    (upscale ww (colourA q.p.col) (colourA q.q.col) (colourA q.r.col) (colourA q.s.col) tx ty)
    (upscale ww (colourB q.p.col) (colourB q.q.col) (colourB q.r.col) (colourB q.s.col) tx ty)
    (getMod ww q (tx + ww / 2) (ty + 2))

/-- `QUAD_TILE(WW, P, Q, R, S)` (R191): the `WW · 4` pixels, row by row. -/
def quadTile (ww : Nat) (q : Quad) : List Pixel :=
  (List.range (ww * 4)).map fun i => quadPixel ww q (i % ww) (i / ww)

/-- The quad in `BLK_IN` (R74). -/
def latchQuad (b : List Byte) : Quad where
  p := pvrtcWord (byteSlice b 0 8)
  q := pvrtcWord (byteSlice b 8 8)
  r := pvrtcWord (byteSlice b 16 8)
  s := pvrtcWord (byteSlice b 24 8)

/-- `numX` (R194). -/
def gridColumns (ww texW : Nat) : Nat := max (ceilDiv texW ww) Config.pvrtcMinWords

/-- `numY` (R194). -/
def gridRows (texH : Nat) : Nat := max (ceilDiv texH Config.wordHeight) Config.pvrtcMinWords

/-- The loop of R195. It runs while `s < minDim`; `fuel = minDim` rounds are more than it can take, as `s` doubles. -/
def twiddleLoop (fuel minDim x y tw s d shift : Nat) : Nat × Nat :=
  match fuel with
  | 0 => (tw, shift)
  | fuel + 1 =>
    if s < minDim then
      let tw1 := if y &&& s ≠ 0 then tw ||| d else tw
      let tw2 := if x &&& s ≠ 0 then tw1 ||| (d <<< 1) else tw1
      twiddleLoop fuel minDim x y tw2 (s <<< 1) (d <<< 2) (shift + 1)
    else (tw, shift)

/-- `TWIDDLE(nx, ny, x, y)` (R195). -/
def twiddle (nx ny x y : Nat) : Nat :=
  let minDim := if ny < nx then ny else nx
  let maxVal := if ny < nx then x else y
  let r := twiddleLoop minDim minDim x y 0 1 1 0
  r.1 ||| ((maxVal >>> r.2) <<< (2 * r.2))

/-- `PVRTC_NEED` of a grid (R208). -/
def pvrtcNeed (nx ny : Nat) : Nat :=
  Config.pvrtcWordBytes * (1 + (raster 0 0 nx ny).foldl (fun m p => max m (twiddle nx ny p.1 p.2)) 0)

/-- `WORD(a, b)` of R196: the word of the grid at `(a, b)`. -/
def readWord (u : DecodeUnit) (nx ny a b : Nat) : Except Stop PvrtcWord :=
  (memRead u (Config.pvrtcWordBytes * twiddle nx ny a b) Config.pvrtcWordBytes).map pvrtcWord

/-- The quad whose top-left word is the grid word `(wx, wy)`, wrapping at the edges (R196). -/
def readQuad (u : DecodeUnit) (nx ny : Nat) (wx wy : Int) : Except Stop Quad := do
  let px := (wx % (nx : Int)).toNat
  let py := (wy % (ny : Int)).toNat
  let qx := ((wx + 1) % (nx : Int)).toNat
  let ry := ((wy + 1) % (ny : Int)).toNat
  let p ← readWord u nx ny px py
  let q ← readWord u nx ny qx py
  let r ← readWord u nx ny px ry
  let s ← readWord u nx ny qx ry
  return { p := p, q := q, r := r, s := s }

/-- The position in the padded image, row by row, of tile pixel `(tx, ty)` of the quad at `(wx, wy)` (R196). -/
def imageIndex (ww nx ny : Nat) (wx wy : Int) (tx ty : Nat) : Nat :=
  let tw := nx * ww
  let th := ny * Config.wordHeight
  let x := ((wx * ww + (ww / 2 : Nat) + tx) % (tw : Int)).toNat
  let y := ((wy * 4 + 2 + ty) % (th : Int)).toNat
  y * tw + x

/-- A quad's tile written into the padded image (R196). -/
def putQuad (ww nx ny : Nat) (wx wy : Int) (tile : List Pixel) (img : List Pixel) : List Pixel :=
  (raster 0 0 ww Config.wordHeight).foldl
    (fun img p => img.set (imageIndex ww nx ny wx wy p.1 p.2) (tileAt tile (p.2 * ww + p.1))) img

/-- One turn of the loop of R196 for the quad at `(wx, wy) = (c − 1, r − 1)`: the cursor, the four reads, the tile. -/
def imageStep (ww nx ny : Nat) (acc : DecodeUnit × List Pixel) (c : Nat × Nat) : Except Stop (DecodeUnit × List Pixel) := do
  let wx : Int := (c.1 : Int) - 1
  let wy : Int := (c.2 : Int) - 1
  let u := acc.1.withCursor (.word wx wy)
  let q ← readQuad u nx ny wx wy
  return (u, putQuad ww nx ny wx wy (quadTile ww q) acc.2)

/-- `IMAGE_PASS(WW)` (R196), over a padded image that starts as transparent black everywhere; the pass writes every pixel
of it (log 13). -/
def imagePass (ww nx ny : Nat) (u : DecodeUnit) : Except Stop (DecodeUnit × List Pixel) :=
  (raster 0 0 nx ny).foldlM (imageStep ww nx ny)
    (u, List.replicate (nx * ww * (ny * Config.wordHeight)) transparentBlack)

/-- The padded image cropped to the texture, at the top left (R194, R197). -/
def cropImage (ww nx texW texH : Nat) (img : List Pixel) : Bitmap where
  width := texW
  height := texH
  pixels := (raster 0 0 texW texH).map fun p => tileAt img (p.2 * (nx * ww) + p.1)

end Sys2Proof.Machine
end

