-- ==== Sys2Proof/Machine/Sequencer.lean ====
section
/-! DEFINITION. The procedures every DECODE and BLOCK command shares: the DECODE entry, the block walk of DXT and ETC, the
Fallback filler, the PVRTC image decode and its region copy, the progress of a command to its completion, and the BLOCK
entry (43_sequencer.md R220 to R235, 42_pvrtc.md R193, R197, R198, 20_memory.md R62 to R64, 60_exceptions.md R265). -/

namespace Sys2Proof.Machine

/-- How the DECODE entry ends without a raise (R220). -/
inductive EntryOutcome where
  /-- A null target or region (R222). -/
  | nullArguments
  /-- An empty region, with the class of the format (R224). -/
  | emptyRegion (c : FormatClass)
  /-- The family procedure runs on the clipped region. -/
  | run (c : FormatClass) (g : Geometry) (r : Rect)
deriving DecidableEq, Repr

/-- What the DECODE entry does once the arguments are present and the format's class is known (R220). -/
def entryRegion (u : DecodeUnit) (c : FormatClass) : Except Stop EntryOutcome := do
  let g ← readGeometry u
  match clip g with
  | none => return .emptyRegion c
  | some r =>
    if g.tgtW < r.x1 ∨ g.tgtH < r.y1 then .error (.raise .targetOverrun)
    else return .run c g r

/-- `DECODE_ENTRY` (R220) for a command whose dispatch word holds `fmt`. -/
def decodeEntry (p : Config.Params) (fmt : Word64) (u : DecodeUnit) : Except Stop EntryOutcome := do
  let ctrl ← readConfig u .ctrl
  if argumentsPresent ctrl = false then return .nullArguments
  else do
    readFmt u
    match classOf p fmt with
    | .unknown => .error (.raise .unsupportedFormat)
    | c => entryRegion u c

/-- The `STATUS` of an empty region (R220). -/
def emptyRegionCompletion : FormatClass → Completion
  | .fallback => .unimplementedPixelFormat
  | .dxt _ => .ok
  | .etc _ => .ok
  | .pvrtc _ => .ok
  | .unknown => .ok

/-- `need` of R228: the end of the last block the walk reads. -/
def blocksNeed (blockBytes : Nat) (g : Geometry) (r : Rect) : Nat :=
  let a := alignedBlocks r
  ((a.y1 - 1) * ceilDiv g.texW Config.tileSize + a.x1) * blockBytes

/-- One pixel of a decoded block, written where it lies in the clipped region (R226). -/
def walkPixel (g : Geometry) (r : Rect) (tile : List Pixel) (column row : Nat) (u : DecodeUnit) (p : Nat × Nat) :
    Except Stop DecodeUnit :=
  let x := 4 * column + p.1
  let y := 4 * row + p.2
  if r.contains x y then memWrite u (y * g.tgtW + x) (tileAt tile (4 * p.2 + p.1)) else .ok u

/-- One block of the walk (R226). -/
def walkBlock (blockBytes : Nat) (tile : List Byte → List Pixel) (g : Geometry) (r : Rect) (u : DecodeUnit)
    (b : Nat × Nat) : Except Stop DecodeUnit := do
  let k := b.2 * ceilDiv g.texW Config.tileSize + b.1
  let bytes ← memRead u (k * blockBytes) blockBytes
  (raster 0 0 4 4).foldlM (walkPixel g r (tile bytes) b.1 b.2) (u.withCursor (.block b.1 b.2))

/-- `WALK(fmt, TILE)` (R226). -/
def walk (blockBytes : Nat) (tile : List Byte → List Pixel) (g : Geometry) (r : Rect) (u : DecodeUnit) :
    Except Stop DecodeUnit :=
  let a := alignedBlocks r
  (raster a.x0 a.y0 a.x1 a.y1).foldlM (walkBlock blockBytes tile g r) u

/-- `DECODE_BLOCKS(fmt)` (R228), up to the pixel writes and the completion it leaves to be made. -/
def decodeBlocks (blockBytes : Nat) (tile : List Byte → List Pixel) (g : Geometry) (r : Rect) (s : State) :
    Except Stop State := do
  let len ← readConfig s.unit .payloadLen
  if len.toNat < blocksNeed blockBytes g r then .error (.raise .payloadUnderrun)
  else do
    let u ← walk blockBytes tile g r s.unit
    return s.withUnit (u.pend none .ok)

/-- One pixel of the Fallback filler (R231). -/
def fillPixel (g : Geometry) (u : DecodeUnit) (p : Nat × Nat) : Except Stop DecodeUnit :=
  memWrite u (p.2 * g.tgtW + p.1) transparentBlack

/-- `DECODE_FALLBACK()` (R231), up to the pixel writes and the completion it leaves to be made. -/
def decodeFallback (g : Geometry) (r : Rect) (s : State) : Except Stop State := do
  let u ← (raster r.x0 r.y0 r.x1 r.y1).foldlM (fillPixel g) s.unit
  return s.withUnit (u.pend none .unimplementedPixelFormat)

/-- One pixel of the PVRTC region copy (R198). A pixel the bitmap does not have is refused (R287, log 11). -/
def copyPixel (g : Geometry) (bm : Bitmap) (u : DecodeUnit) (p : Nat × Nat) : Except Stop DecodeUnit :=
  match bm.pixel p.1 p.2 with
  | some px => memWrite u (p.2 * g.tgtW + p.1) px
  | none => .error (.refuse .bitmapTooSmall)

/-- The region copy of R197 and R198. -/
def copyRegion (g : Geometry) (r : Rect) (bm : Bitmap) (u : DecodeUnit) : Except Stop DecodeUnit :=
  (raster r.x0 r.y0 r.x1 r.y1).foldlM (copyPixel g bm) u

/-- The whole-texture bitmap a PVRTC DECODE computes on a miss: the image pass and the crop (R197). -/
def decodeImage (f : PvrtcFormat) (g : Geometry) (u : DecodeUnit) : Except Stop (DecodeUnit × Bitmap) := do
  let nx := gridColumns f.wordWidth g.texW
  let ny := gridRows g.texH
  let res ← imagePass f.wordWidth nx ny u
  return (res.1, cropImage f.wordWidth nx g.texW g.texH res.2)

/-- What a PVRTC DECODE does once every check has passed (R197), up to what it leaves to be made. The lookup and the
insertion are two operations of the cache device: the lookup happens here, and the operations of other units in `gapOps`
come after it; the insertion is left to be made, so that units the machine holds can act before it as well (R265, log 9). -/
def decodeCached (f : PvrtcFormat) (g : Geometry) (r : Rect) (id : Word32) (s : State) : Except Stop State := do
  let found := cacheLookup s.cache id
  let between := cacheApplyAll found.2 s.gapOps
  match found.1 with
  | some bm => do
    let u ← copyRegion g r bm s.unit
    return ((s.withUnit (u.pend none .ok)).withCache between).withGapOps []
  | none => do
    let img ← decodeImage f g s.unit
    let u ← copyRegion g r img.2 img.1
    return ((s.withUnit (u.pend (some (id, img.2)) .ok)).withCache between).withGapOps []

/-- `DECODE_PVRTC(fmt)` (R197, R208). -/
def decodePvrtc (f : PvrtcFormat) (g : Geometry) (r : Rect) (s : State) : Except Stop State := do
  let len ← readConfig s.unit .payloadLen
  let id ← readConfig s.unit .infoId
  if len.toNat < pvrtcNeed (gridColumns f.wordWidth g.texW) (gridRows g.texH) then .error (.raise .payloadUnderrun)
  else decodeCached f g r id s

/-- The family procedure of a class (R220). -/
def decodeFamily (c : FormatClass) (g : Geometry) (r : Rect) (s : State) : Except Stop State :=
  match c with
  | .dxt f => decodeBlocks f.blockBytes (dxtTile f) g r s
  | .etc f => decodeBlocks f.blockBytes (etcTile f) g r s
  | .pvrtc f => decodePvrtc f g r s
  | .fallback => decodeFallback g r s
  | .unknown => .error (.raise .unsupportedFormat)

/-- What a DECODE does, up to the raise: the entry of R220 and then the family procedure, which starts with no pixel write
made. A null argument or an empty region completes at once; else the insertion, the pixel writes and the completion are
left to be made. -/
def decodeProcedure (fmt : Word64) (s : State) : Except Stop State := do
  match ← decodeEntry s.params fmt s.unit with
  | .nullArguments => return s.complete (some false) .invalidDecodeArguments
  | .emptyRegion c => return s.complete (some true) (emptyRegionCompletion c)
  | .run c g r => decodeFamily c g r (s.withUnit (s.unit.withWrites []))

/-- The insertion that the active unit's command still has to make (R263, R265). -/
def State.insertNow (s : State) : State :=
  match s.unit.insertion with
  | none => s
  | some e => (s.withCache (cacheInsert s.cache e.1 e.2)).withUnit (s.unit.withInsertion none)

/-- Pixel write number `n` among those that the active unit's command still has to make (R57, R62). -/
def State.writeNow (s : State) (n : Nat) : State :=
  match s.unit.writes[n]? with
  | none => s
  | some w =>
    (s.withTargets (writeTargetWord s.targets s.unit.binding w.1 w.2)).withUnit
      (s.unit.withWrites (s.unit.writes.eraseIdx n))

/-- All the pixel writes that the active unit's command still has to make, and its completion `k` (R62, R63). -/
def State.writeRest (s : State) (k : Completion) : State :=
  (s.withTargets (writeTargets s.targets s.unit.binding s.unit.writes)).complete (some true) k

/-- What the active unit's command in progress does next: R197 puts the insertion before the region copy, the pixel writes
come in any order (R62), and the completion comes last (R63). Nothing, where no command is in progress. -/
def State.proceed (s : State) (p : Progress) : State :=
  match s.unit.completion with
  | none => s
  | some k =>
    match p with
    | .insert => s.insertNow
    | .pixel n => s.insertNow.writeNow n
    | .finish => s.insertNow.writeRest k

/-- A DECODE command of the format word `fmt` (R220, R235), from its issue to its completion with no other unit's step in
between. -/
def decodeCommand (fmt : Word64) (s : State) : Host.Outcome State Fault Refusal :=
  finish s true ((decodeProcedure fmt s).map fun t => t.proceed .finish)

/-- A DECODE command of the format word `fmt` up to the point where only its insertion, its pixel writes and its completion
are left to be made; a raise, a null argument and an empty region end it here (R62, R253, R265). -/
def startDecode (fmt : Word64) (s : State) : Host.Outcome State Fault Refusal :=
  finish s true (decodeProcedure fmt s)

/-- The tile a BLOCK of a datapath computes from the latch bytes (R119, R159, R191). -/
def blockTile (c : FormatClass) (b : List Byte) : List Pixel :=
  match c with
  | .dxt f => dxtTile f b
  | .etc f => etcTile f b
  | .pvrtc f => quadTile f.wordWidth (latchQuad b)
  | .fallback => []
  | .unknown => []

/-- What a BLOCK does, up to the raise: the entry of R234, the latch check of R257, the tile and its latch (R120, R160,
R193). -/
def blockProcedure (fmt : Word64) (s : State) : Except Stop State := do
  readFmt s.unit
  match blockClassOf s.params fmt with
  | none => .error (.raise .illegalBlock)
  | some c => do
    let bytes ← readLatch s.unit c.latchBytes
    return (s.withUnit (s.unit.withBlkOut (blkOutAfter s.unit.blkOut (blockTile c bytes)))).complete none .ok

/-- A BLOCK command of the format word `fmt` (R234, R235). -/
def blockCommand (fmt : Word64) (s : State) : Host.Outcome State Fault Refusal :=
  finish s false (blockProcedure fmt s)

end Sys2Proof.Machine
end

