-- ==== Sys2Proof/Machine/DxtCommands.lean ====
section
/-! DEFINITION. The DXT commands (40_dxt.md R120 to R122, 43_sequencer.md R236 to R238). -/

namespace Sys2Proof.Machine

/-- `DECODE.DXT1` (R236). -/
def execDecodeDxt1 (s : State) : Host.Outcome State Fault Refusal := decodeCommand 7 s

/-- `DECODE.DXT3` (R237). -/
def execDecodeDxt3 (s : State) : Host.Outcome State Fault Refusal := decodeCommand 9 s

/-- `DECODE.DXT5` (R238). -/
def execDecodeDxt5 (s : State) : Host.Outcome State Fault Refusal := decodeCommand 11 s

/-- `BLOCK.DXT1` (R120). -/
def execBlockDxt1 (s : State) : Host.Outcome State Fault Refusal := blockCommand 7 s

/-- `BLOCK.DXT3` (R121). -/
def execBlockDxt3 (s : State) : Host.Outcome State Fault Refusal := blockCommand 9 s

/-- `BLOCK.DXT5` (R122). -/
def execBlockDxt5 (s : State) : Host.Outcome State Fault Refusal := blockCommand 11 s

end Sys2Proof.Machine
end

