-- ==== Sys2Proof/Machine/ErrorCommands.lean ====
section
/-! DEFINITION. FLUSH and the commands whose effect is to raise (43_sequencer.md R233, 60_exceptions.md R252, R256). -/

namespace Sys2Proof.Machine

/-- `DECODE.UNSUPPORTED` (R252): a DECODE of a code with no row. The entry raises `UnsupportedFormat` where `KNOWN_FORMATS` lacks the
code; a code that the parameter adds reaches the Fallback (90_conflicts.md C8, log 15). -/
def execDecodeUnsupported (code : Word32) (s : State) : Host.Outcome State Fault Refusal := decodeCommand ((0 : Word32) ++ code) s

/-- `BLOCK.ILLEGAL` (R256, R234): the BLOCK entry raises `IllegalCommand(2)`. -/
def execBlockIllegal (fmt : Word64) (s : State) : Host.Outcome State Fault Refusal := blockCommand fmt s

/-- `FLUSH` (R233): clear the cache device; no configuration register is read. -/
def execFlush (s : State) : Host.Outcome State Fault Refusal :=
  finish s false (.ok ((s.withCache (cacheFlush s.cache)).complete none .ok))

/-- `ILLEGAL.CMD` (R256): a bad `CMD` word raises `IllegalCommand(1)` before anything else is checked; it is no DECODE, so
`RESULT` is unchanged. -/
def execIllegalCmd (_cmd : Word32) (s : State) : Host.Outcome State Fault Refusal := finish s false (.error (.raise .illegalWord))

end Sys2Proof.Machine
end

