-- ==== Sys2Proof/Machine/EtcCommands.lean ====
section
/-! DEFINITION. The ETC commands (41_etc.md R160 to R163, 43_sequencer.md R239 to R242). A DECODE takes the ETC decoder or the
Fallback as `ETC_ROUTED` says (R230). -/

namespace Sys2Proof.Machine

/-- `DECODE.ETC1` (R239). -/
def execDecodeEtc1 (s : State) : Host.Outcome State Fault Refusal := decodeCommand 6 s

/-- `DECODE.ETC2_RGB` (R240). -/
def execDecodeEtc2Rgb (s : State) : Host.Outcome State Fault Refusal := decodeCommand 22 s

/-- `DECODE.ETC2_RGBA` (R241). -/
def execDecodeEtc2Rgba (s : State) : Host.Outcome State Fault Refusal := decodeCommand 23 s

/-- `DECODE.ETC2_RGB_A1` (R242). -/
def execDecodeEtc2RgbA1 (s : State) : Host.Outcome State Fault Refusal := decodeCommand 24 s

/-- `BLOCK.ETC1` (R160). -/
def execBlockEtc1 (s : State) : Host.Outcome State Fault Refusal := blockCommand 6 s

/-- `BLOCK.ETC2_RGB` (R161). -/
def execBlockEtc2Rgb (s : State) : Host.Outcome State Fault Refusal := blockCommand 22 s

/-- `BLOCK.ETC2_RGB_A1` (R162). -/
def execBlockEtc2RgbA1 (s : State) : Host.Outcome State Fault Refusal := blockCommand 24 s

/-- `BLOCK.ETC2_RGBA` (R163). -/
def execBlockEtc2Rgba (s : State) : Host.Outcome State Fault Refusal := blockCommand 23 s

end Sys2Proof.Machine
end

