-- ==== Sys2Proof/Machine/FallbackCommands.lean ====
section
/-! DEFINITION. The DECODE commands of formats with no decoder (43_sequencer.md R243). -/

namespace Sys2Proof.Machine

/-- `DECODE.FALLBACK.PVRTC2_2BPP` (R243). -/
def execDecodeFallbackPvrtcII2bpp (s : State) : Host.Outcome State Fault Refusal := decodeCommand 4 s

/-- `DECODE.FALLBACK.PVRTC2_4BPP` (R243). -/
def execDecodeFallbackPvrtcII4bpp (s : State) : Host.Outcome State Fault Refusal := decodeCommand 5 s

/-- `DECODE.FALLBACK.DXT2` (R243). -/
def execDecodeFallbackDxt2 (s : State) : Host.Outcome State Fault Refusal := decodeCommand 8 s

/-- `DECODE.FALLBACK.DXT4` (R243). -/
def execDecodeFallbackDxt4 (s : State) : Host.Outcome State Fault Refusal := decodeCommand 10 s

/-- `DECODE.FALLBACK.BC4` (R243). -/
def execDecodeFallbackBc4 (s : State) : Host.Outcome State Fault Refusal := decodeCommand 12 s

/-- `DECODE.FALLBACK.BC5` (R243). -/
def execDecodeFallbackBc5 (s : State) : Host.Outcome State Fault Refusal := decodeCommand 13 s

/-- `DECODE.FALLBACK.BC6` (R243). -/
def execDecodeFallbackBc6 (s : State) : Host.Outcome State Fault Refusal := decodeCommand 14 s

/-- `DECODE.FALLBACK.BC7` (R243). -/
def execDecodeFallbackBc7 (s : State) : Host.Outcome State Fault Refusal := decodeCommand 15 s

/-- `DECODE.FALLBACK.UYVY` (R243). -/
def execDecodeFallbackUyvy (s : State) : Host.Outcome State Fault Refusal := decodeCommand 16 s

/-- `DECODE.FALLBACK.YUY2` (R243). -/
def execDecodeFallbackYuy2 (s : State) : Host.Outcome State Fault Refusal := decodeCommand 17 s

/-- `DECODE.FALLBACK.BW1BPP` (R243). -/
def execDecodeFallbackBw1bpp (s : State) : Host.Outcome State Fault Refusal := decodeCommand 18 s

/-- `DECODE.FALLBACK.R9G9B9E5` (R243). -/
def execDecodeFallbackR9g9b9e5 (s : State) : Host.Outcome State Fault Refusal := decodeCommand 19 s

/-- `DECODE.FALLBACK.RGBG8888` (R243). -/
def execDecodeFallbackRgbg8888 (s : State) : Host.Outcome State Fault Refusal := decodeCommand 20 s

/-- `DECODE.FALLBACK.GRGB8888` (R243). -/
def execDecodeFallbackGrgb8888 (s : State) : Host.Outcome State Fault Refusal := decodeCommand 21 s

/-- `DECODE.FALLBACK.EAC_R11` (R243). -/
def execDecodeFallbackEacR11 (s : State) : Host.Outcome State Fault Refusal := decodeCommand 25 s

/-- `DECODE.FALLBACK.EAC_RG11` (R243). -/
def execDecodeFallbackEacRg11 (s : State) : Host.Outcome State Fault Refusal := decodeCommand 26 s

/-- `DECODE.FALLBACK.CUSTOM` (R243, R73): a DECODE of a custom format, whose descriptor bytes are not interpreted. -/
def execDecodeFallbackCustom (fmt : Word64) (s : State) : Host.Outcome State Fault Refusal := decodeCommand fmt s

end Sys2Proof.Machine
end

