-- ==== Sys2Proof/Machine/PvrtcCommands.lean ====
section
/-! DEFINITION. The PVRTC commands (42_pvrtc.md R200 to R207). -/

namespace Sys2Proof.Machine

/-- `DECODE.PVRTC_2BPP_RGB` (R204). -/
def execDecodePvrtc2bppRgb (s : State) : Host.Outcome State Fault Refusal := decodeCommand 0 s

/-- `DECODE.PVRTC_2BPP_RGBA` (R205). -/
def execDecodePvrtc2bppRgba (s : State) : Host.Outcome State Fault Refusal := decodeCommand 1 s

/-- `DECODE.PVRTC_4BPP_RGB` (R206). -/
def execDecodePvrtc4bppRgb (s : State) : Host.Outcome State Fault Refusal := decodeCommand 2 s

/-- `DECODE.PVRTC_4BPP_RGBA` (R207). -/
def execDecodePvrtc4bppRgba (s : State) : Host.Outcome State Fault Refusal := decodeCommand 3 s

/-- `BLOCK.PVRTC_2BPP_RGB` (R200). -/
def execBlockPvrtc2bppRgb (s : State) : Host.Outcome State Fault Refusal := blockCommand 0 s

/-- `BLOCK.PVRTC_2BPP_RGBA` (R201). -/
def execBlockPvrtc2bppRgba (s : State) : Host.Outcome State Fault Refusal := blockCommand 1 s

/-- `BLOCK.PVRTC_4BPP_RGB` (R202). -/
def execBlockPvrtc4bppRgb (s : State) : Host.Outcome State Fault Refusal := blockCommand 2 s

/-- `BLOCK.PVRTC_4BPP_RGBA` (R203). -/
def execBlockPvrtc4bppRgba (s : State) : Host.Outcome State Fault Refusal := blockCommand 3 s

end Sys2Proof.Machine
end

