-- ==== Sys2Proof/Machine/Dispatch.lean ====
section
/-! DEFINITION. The dispatch: one arm per instruction, each one direct call of its meaning. -/

namespace Sys2Proof.Machine

def exec (i : Instr) (s : State) : Host.Outcome State Fault Refusal :=
  match i with
  | .decodeDxt1 => Sys2Proof.Machine.execDecodeDxt1 s
  | .decodeDxt3 => Sys2Proof.Machine.execDecodeDxt3 s
  | .decodeDxt5 => Sys2Proof.Machine.execDecodeDxt5 s
  | .decodeEtc1 => Sys2Proof.Machine.execDecodeEtc1 s
  | .decodeEtc2Rgb => Sys2Proof.Machine.execDecodeEtc2Rgb s
  | .decodeEtc2Rgba => Sys2Proof.Machine.execDecodeEtc2Rgba s
  | .decodeEtc2RgbA1 => Sys2Proof.Machine.execDecodeEtc2RgbA1 s
  | .decodePvrtc2bppRgb => Sys2Proof.Machine.execDecodePvrtc2bppRgb s
  | .decodePvrtc2bppRgba => Sys2Proof.Machine.execDecodePvrtc2bppRgba s
  | .decodePvrtc4bppRgb => Sys2Proof.Machine.execDecodePvrtc4bppRgb s
  | .decodePvrtc4bppRgba => Sys2Proof.Machine.execDecodePvrtc4bppRgba s
  | .decodeFallbackPvrtcII2bpp => Sys2Proof.Machine.execDecodeFallbackPvrtcII2bpp s
  | .decodeFallbackPvrtcII4bpp => Sys2Proof.Machine.execDecodeFallbackPvrtcII4bpp s
  | .decodeFallbackDxt2 => Sys2Proof.Machine.execDecodeFallbackDxt2 s
  | .decodeFallbackDxt4 => Sys2Proof.Machine.execDecodeFallbackDxt4 s
  | .decodeFallbackBc4 => Sys2Proof.Machine.execDecodeFallbackBc4 s
  | .decodeFallbackBc5 => Sys2Proof.Machine.execDecodeFallbackBc5 s
  | .decodeFallbackBc6 => Sys2Proof.Machine.execDecodeFallbackBc6 s
  | .decodeFallbackBc7 => Sys2Proof.Machine.execDecodeFallbackBc7 s
  | .decodeFallbackUyvy => Sys2Proof.Machine.execDecodeFallbackUyvy s
  | .decodeFallbackYuy2 => Sys2Proof.Machine.execDecodeFallbackYuy2 s
  | .decodeFallbackBw1bpp => Sys2Proof.Machine.execDecodeFallbackBw1bpp s
  | .decodeFallbackR9g9b9e5 => Sys2Proof.Machine.execDecodeFallbackR9g9b9e5 s
  | .decodeFallbackRgbg8888 => Sys2Proof.Machine.execDecodeFallbackRgbg8888 s
  | .decodeFallbackGrgb8888 => Sys2Proof.Machine.execDecodeFallbackGrgb8888 s
  | .decodeFallbackEacR11 => Sys2Proof.Machine.execDecodeFallbackEacR11 s
  | .decodeFallbackEacRg11 => Sys2Proof.Machine.execDecodeFallbackEacRg11 s
  | .decodeFallbackCustom fmt => Sys2Proof.Machine.execDecodeFallbackCustom fmt s
  | .decodeUnsupported code => Sys2Proof.Machine.execDecodeUnsupported code s
  | .blockDxt1 => Sys2Proof.Machine.execBlockDxt1 s
  | .blockDxt3 => Sys2Proof.Machine.execBlockDxt3 s
  | .blockDxt5 => Sys2Proof.Machine.execBlockDxt5 s
  | .blockEtc1 => Sys2Proof.Machine.execBlockEtc1 s
  | .blockEtc2Rgb => Sys2Proof.Machine.execBlockEtc2Rgb s
  | .blockEtc2RgbA1 => Sys2Proof.Machine.execBlockEtc2RgbA1 s
  | .blockEtc2Rgba => Sys2Proof.Machine.execBlockEtc2Rgba s
  | .blockPvrtc2bppRgb => Sys2Proof.Machine.execBlockPvrtc2bppRgb s
  | .blockPvrtc2bppRgba => Sys2Proof.Machine.execBlockPvrtc2bppRgba s
  | .blockPvrtc4bppRgb => Sys2Proof.Machine.execBlockPvrtc4bppRgb s
  | .blockPvrtc4bppRgba => Sys2Proof.Machine.execBlockPvrtc4bppRgba s
  | .blockIllegal fmt => Sys2Proof.Machine.execBlockIllegal fmt s
  | .flush => Sys2Proof.Machine.execFlush s
  | .illegalCmd cmd => Sys2Proof.Machine.execIllegalCmd cmd s

end Sys2Proof.Machine
end

