-- ==== Sys2Proof/Machine/Host.lean ====
section
/-! DEFINITION. The host side of a unit: register, latch and memory accesses, the container parser, the choice of a unit
and of its target memory, the RESET, and the command a `CMD` write starts (10_state.md R20, R36; 30_encoding.md R75, R76;
60_exceptions.md R251, R266, R268, R271; 70_reset_and_hazards.md R280, R285, R286). -/

namespace Sys2Proof.Machine

/-- What a host read answers: a register's value, a list of keys, or no value. -/
inductive HostValue where
  | word (v : Word64)
  | keys (ks : List Word32)
  | noValue
deriving DecidableEq, Repr

/-- The value of a register that may be unwritten. -/
def valueOf {n : Nat} (v : Option (BitVec n)) : HostValue :=
  match v with
  | some w => .word (w.setWidth 64)
  | none => .noValue

/-- A host read (R232: a configuration register gives the value the host last wrote; R36: reading `CMD` returns no value;
R37 to R40, R45, R266). -/
def hostRead (s : State) (r : HostReadable) : HostValue :=
  match r with
  | .fmt => valueOf s.unit.fmt
  | .config c => valueOf (s.unit.config c)
  | .cmd => .noValue
  | .result => .word (BitVec.ofBool s.unit.result |>.setWidth 64)
  | .status => .word (s.unit.status.setWidth 64)
  | .faultInfo => .word (s.unit.faultInfo.setWidth 64)
  | .faultSeen => .word (BitVec.ofBool s.unit.faultSeen |>.setWidth 64)
  | .blkOut i => valueOf ((s.unit.blkOut.get i).map Pixel.pack)
  | .cacheCount => .word ((cacheCount s.cache).setWidth 64)
  | .cacheKeys => .keys (cacheKeys s.cache)
  | .target index => valueOf (Memory.read s.target index)

/-- `LOAD PAYLOAD, bytes` (R75): the bytes from payload address 0 on, and `PAYLOAD_LEN` (R50; log 14). -/
def loadPayload (u : DecodeUnit) (bytes : List Byte) : DecodeUnit :=
  { u with
    payload := Memory.writeFrom u.payload 0 bytes
    payloadLen := some (BitVec.ofNat 32 bytes.length) }

/-- `LOAD BLK_IN, bytes` (R75): byte `k` of the list goes to `BLK_IN[k]`. R35 and R75 are silent on a list whose length is
not 32: a shorter one leaves the bytes past its end as they were, and of a longer one the bytes past entry 31 are dropped
(log 32: DESIGN CHOICE). -/
def loadBlkIn (u : DecodeUnit) (bytes : List Byte) : DecodeUnit := { u with blkIn := writeLatch u.blkIn 0 bytes }

/-- The kinds the header parser fails with (R251). -/
inductive ParseError where
  | malformedHeader
  | unsupportedFormat
deriving DecidableEq, Repr

/-- The fields of an accepted container and its payload (R76). -/
structure Header where
  flags : Word32
  fmt : Word64
  cspace : Word32
  chtype : Word32
  texH : Word32
  texW : Word32
  texDepth : Word32
  surfaces : Word32
  faces : Word32
  mipmaps : Word32
  metadata : List Byte
  payload : List Byte
deriving DecidableEq, Repr

/-- The 32-bit little-endian field at an offset of the container (R76). -/
def headerWord (buf : List Byte) (offset : Nat) : Word32 := leWord 32 (byteSlice buf offset 4)

/-- The size in bytes of the fixed header (R76). -/
def headerBytes : Nat := 0x34

/-- The magic number of the container (R76). -/
def headerMagic : Word32 := 0x03525650

/-- The fields of a container at their offsets (R76). -/
def readHeader (buf : List Byte) : Header where
  flags := headerWord buf 0x04
  fmt := leWord 64 (byteSlice buf 0x08 8)
  cspace := headerWord buf 0x10
  chtype := headerWord buf 0x14
  texH := headerWord buf 0x18
  texW := headerWord buf 0x1C
  texDepth := headerWord buf 0x20
  surfaces := headerWord buf 0x24
  faces := headerWord buf 0x28
  mipmaps := headerWord buf 0x2C
  metadata := byteSlice buf headerBytes (headerWord buf 0x30).toNat
  payload := buf.drop (headerBytes + (headerWord buf 0x30).toNat)

/-- `PARSE(BUF, L)` (R251), `L` being the length of the list; the checks in the rule's order. -/
def parseContainer (known : Config.Params) (buffer : Option (List Byte)) : Except ParseError Header :=
  match buffer with
  | none => .error .malformedHeader
  | some buf =>
    let h := readHeader buf
    if buf.length ≤ headerBytes then .error .malformedHeader
    else if headerWord buf 0 ≠ headerMagic then .error .malformedHeader
    else if 1 < h.flags.toNat then .error .malformedHeader
    else if 1 < h.cspace.toNat then .error .malformedHeader
    else if 12 < h.chtype.toNat then .error .malformedHeader
    else if bits h.fmt 63 32 = 0 ∧ isKnown known (bits h.fmt 31 0) = false then .error .unsupportedFormat
    else if buf.length < (headerWord buf 0x30).toNat + headerBytes then .error .malformedHeader
    else .ok h

/-- The register load of R76 and R251. -/
def loadHeader (u : DecodeUnit) (h : Header) : DecodeUnit :=
  { loadPayload u h.payload with
    flags := some h.flags
    fmt := some h.fmt
    cspace := some h.cspace
    chtype := some h.chtype
    texH := some h.texH
    texW := some h.texW
    texDepth := some h.texDepth
    surfaces := some h.surfaces
    faces := some h.faces
    mipmaps := some h.mipmaps }

/-- Whether a payload's length fits in `PAYLOAD_LEN` (R30). -/
def payloadFits (bytes : List Byte) : Bool := decide (bytes.length < 2 ^ 32)

/-- A unit after the RESET; its payload memory and its target binding are the host's and stay (R280; log 29). -/
def resetDecodeUnit (u : DecodeUnit) : DecodeUnit := resetUnit u.payload u.binding

/-- Whether no unit's command is in progress. -/
def allIdle (s : State) : Bool := s.unit.cmd.isNone && s.peers.all fun p => p.2.cmd.isNone

/-- The RESET of R280: every unit and the cache device. The target memories keep their contents. -/
def resetAll (s : State) : State :=
  { s with
    unit := resetDecodeUnit s.unit
    peers := s.peers.map fun p => (p.1, resetDecodeUnit p.2)
    cache := [] }

/-- The unit with number `k` among the other units. -/
def findPeer (peers : List (Nat × DecodeUnit)) (k : Nat) : Option DecodeUnit :=
  match peers with
  | [] => none
  | (n, u) :: rest => if n = k then some u else findPeer rest k

/-- The other units with the one numbered `k` replaced by the unit `u` numbered `n`. -/
def swapPeer (peers : List (Nat × DecodeUnit)) (k n : Nat) (u : DecodeUnit) : List (Nat × DecodeUnit) :=
  match peers with
  | [] => []
  | (m, v) :: rest => if m = k then (n, u) :: rest else (m, v) :: swapPeer rest k n u

/-- The host turns to unit `k` (R271; log 20). -/
def selectUnit (s : State) (k : Nat) : Host.Outcome State Fault Refusal :=
  if k = s.unitId then .next s
  else
    match findPeer s.peers k with
    | some u => .next { s with unitId := k, unit := u, peers := swapPeer s.peers k s.unitId s.unit }
    | none => .refused .noSuchUnit

/-- The `FMT` half of the dispatch word. While `FMT` is unwritten the half is 0; every command that would use it raises
before it does (log 1). -/
def dispatchFmt (u : DecodeUnit) : Word64 := u.fmt.getD 0

/-- The instruction that a write of `w` to `CMD` starts (R36, R71). -/
def fetchCommand (s : State) (w : Word32) : Instr := decodeWord (dispatchWord (dispatchFmt s.unit) w)

/-- The machine as a command finds it: `CMD` holds the word (R36). -/
def issue (s : State) (w : Word32) : State := s.withUnit (s.unit.withCmd w)

/-- A `CMD` write whose command other units' steps may interrupt (R62, R265, R286): a DECODE is left in progress, and a
BLOCK, a FLUSH or an illegal word, which have one effect only, run whole. -/
def startCommand (s : State) (w : Word32) : Host.Outcome State Fault Refusal :=
  if w = 0 then startDecode (dispatchFmt s.unit) (issue s w) else exec (fetchCommand s w) (issue s w)

/-- The accesses that no host may make to a unit while its command is in progress: every write to its registers, latch,
payload and binding, and another command (R268, R285). A read has no effect, and the target memory is no input of the
command, so both stay possible (R57, R63). -/
def needsIdleUnit : HostEvent → Bool
  | .setFmt _ => true
  | .set _ _ => true
  | .writeBlkIn _ _ => true
  | .loadBlkIn _ => true
  | .writePayload _ _ => true
  | .loadPayload _ => true
  | .writeTarget _ _ => false
  | .loadContainer _ => true
  | .read _ => false
  | .select _ => false
  | .gap _ => false
  | .reset => false
  | .bindTarget _ => true
  | .cmd _ => true
  | .start _ => true
  | .proceed _ => false

/-- What one access does where it is admitted. A target word is written and read at any index: R52 names the words below
`TGT_W · TGT_H` and is silent on a host access outside them, or before the host has written `TGT_W` and `TGT_H`; the model
stores the word and reads it back (log 28: DESIGN CHOICE). A payload byte is written at any address: R30 and R50 name the
bytes below `PAYLOAD_LEN` and are silent on a host write at or above it, or before the host has written `PAYLOAD_LEN`; the
model keeps the byte, and a command reads it once `PAYLOAD_LEN` is above its address (log 31: DESIGN CHOICE). A read of a
`BLK_OUT` entry with no value is refused because I6 says so: "`refuse`" (log 12). -/
def admittedAccess (s : State) (e : HostEvent) : Host.Outcome State Fault Refusal :=
  match e with
  | .setFmt v => .next (s.withUnit { s.unit with fmt := some v })
  | .set r v => .next (s.withUnit (s.unit.setConfig r v))
  | .writeBlkIn i v => .next (s.withUnit { s.unit with blkIn := s.unit.blkIn.set i.val (some v) })
  | .loadBlkIn bytes => .next (s.withUnit (loadBlkIn s.unit bytes))
  | .writePayload a v => .next (s.withUnit { s.unit with payload := Memory.write s.unit.payload a.toNat v })
  | .loadPayload bytes =>
    if payloadFits bytes then .next (s.withUnit (loadPayload s.unit bytes)) else .refused .payloadTooLong
  | .writeTarget i v => .next (s.withTargets (writeTargetWord s.targets s.unit.binding i v))
  | .loadContainer buffer =>
    match parseContainer s.params buffer with
    | .ok h => if payloadFits h.payload then .next (s.withUnit (loadHeader s.unit h)) else .refused .payloadTooLong
    | .error _ => .next s
  | .read (.blkOut i) => if s.unit.blkOut.get i = none then .refused .blkOutNoValue else .next s
  | .read _ => .next s
  | .select k => selectUnit s k
  | .gap ops => .next (s.withGapOps (s.gapOps ++ ops))
  | .reset => if allIdle s then .next (resetAll s) else .refused .commandInProgress
  | .bindTarget b => .next (s.withUnit { s.unit with binding := b })
  | .cmd w => exec (fetchCommand s w) (issue s w)
  | .start w => startCommand s w
  | .proceed p => .next (s.proceed p)

/-- One access of the host. R285 and R268 rule out the accesses of `needsIdleUnit` while the unit's command is in progress:
"A model may treat such a write as a refusal: the run is not admitted." -/
def hostAccess (s : State) (e : HostEvent) : Host.Outcome State Fault Refusal :=
  if needsIdleUnit e && s.unit.cmd.isSome then .refused .commandInProgress else admittedAccess s e

/-- One turn of the machine: the next access of the host, or nothing while the host makes none (R273). -/
def turn (s : State) : Host.Outcome State Fault Refusal :=
  match s.host with
  | [] => .next s
  | e :: rest => hostAccess (s.withHost rest) e

/-- The machine with the command of the dispatch word `cw` as the host's next access, to an idle unit. -/
def placeCommand (s : State) (cw : DispatchWord) : State :=
  { s with
    unit := { s.unit.idle with fmt := some (cw.extractLsb' 32 64) }
    host := .cmd (cw.extractLsb' 0 32) :: s.host }

end Sys2Proof.Machine
end

