-- ==== Sys2Proof/Machine/Step.lean ====
section
/-! DEFINITION. The step, and the host's way of placing one instruction where the next step fetches it. -/

namespace Sys2Proof.Machine

/-- One step: the next access of the host, or the next step of a command in progress (R62, R268; log 8, log 30). -/
def step (s : State) : Host.Outcome State Fault Refusal := turn s

/-- The machine whose very next step runs the instruction with the table word `w`: `FMT` holds its upper half, and a
`CMD` write of its lower half is the host's next access (log 3). -/
def State.withFetchWord (s : State) (nbits w : Nat) : State :=
  placeCommand s (BitVec.ofNat 96 (w % 2 ^ nbits))

end Sys2Proof.Machine
end

