-- ==== Sys2Proof/Safety.lean ====
section
/-! DEFINITION. What a well-kept machine is, and the words the statements use: the invariant, the states in which a
command completes or raises, and the pixel that each decoder owes to a position of the texture. -/

namespace Sys2Proof.Machine

/-- The pairs of `STATUS` and `FAULT_INFO` that a command can leave (60_exceptions.md R250, R257). -/
def legalOutcome (status info : Byte) : Bool :=
  if status = 0 ∨ status = 2 ∨ status = 3 ∨ status = 4 then info == 0
  else if status = 5 ∨ status = 6 then info == 1 || info == 2
  else status == 7 && [1, 5, 6, 11, 12, 13, 14, 15, 16, 17, 18, 19, 20].contains info.toNat

/-- The `STATUS` codes of a raise (R250). -/
def isRaiseStatus (status : Byte) : Bool := status == 2 || status == 5 || status == 6 || status == 7

/-- What holds of a decode unit between two host accesses. -/
structure DecodeUnit.Inv (u : DecodeUnit) : Prop where
  /-- The unit is idle: no command is in progress, the cursor holds no value and nothing is left to do (R23, R44); or a
  DECODE is in progress that will complete, its pixel writes lie inside the target array (R52, R59), and its insertion goes
  under the unit's `INFO_ID` (R197). -/
  progress : u.idle = u ∨
    (u.cmd = some 0 ∧ (u.completion = some .ok ∨ u.completion = some .unimplementedPixelFormat) ∧
      (∀ w ∈ u.writes, w.1 < targetWords u) ∧ ∀ e, u.insertion = some e → u.infoId = some e.1)
  /-- `STATUS` and `FAULT_INFO` hold a pair of R250. -/
  outcome : legalOutcome u.status u.faultInfo = true
  /-- A `STATUS` that reports a raise stands with `FAULT_SEEN` (R39, R253). -/
  sticky : isRaiseStatus u.status = true → u.faultSeen = true
  /-- The codes that only a DECODE writes stand with the `RESULT` it wrote (R250, R253, R255, R258). -/
  result : (u.status = 3 → u.result = true) ∧ (u.status = 2 ∨ u.status = 4 ∨ u.status = 5 → u.result = false)
  /-- The payload memory keeps its canonical form. -/
  payloadWf : Memory.wf u.payload = true
  /-- Payload addresses have 32 bits (R50). -/
  payloadAddresses : ∀ c ∈ u.payload, c.1 < 2 ^ 32

/-- What holds of the cache device: at most 8 entries (R42), and no two with one key (R262, R263). -/
structure CacheInv (c : List CacheEntry) : Prop where
  bound : c.length ≤ 8
  distinct : (cacheKeys c).Nodup

/-- What holds of the machine between two host accesses. -/
structure State.Inv (s : State) : Prop where
  unit : s.unit.Inv
  peers : ∀ p ∈ s.peers, p.2.Inv
  /-- The target memories keep their canonical form. -/
  targets : targetsWf s.targets = true
  cache : CacheInv s.cache
  /-- No two units have one number (R271). -/
  numbers : (s.unitId :: s.peers.map Prod.fst).Nodup

/-- The unit with number `k`, whether the host drives it now or not (R271). -/
def State.unitOf (s : State) (k : Nat) : Option DecodeUnit :=
  if k = s.unitId then some s.unit else findPeer s.peers k

/-- `s` after a DECODE that completes with `RESULT = 1` and the `STATUS` code given; `ts` are the target memories then. -/
def State.decodeDone (s : State) (ts : List (Nat × List (Nat × Word32))) (code : Byte) : State :=
  { s with targets := ts, unit := { s.unit.idle with result := true, status := code, faultInfo := 0 } }

/-- `s` after a BLOCK that completes with the output latch `o`. -/
def State.blockDone (s : State) (o : Vector (Option Pixel) 32) : State :=
  { s with unit := { s.unit.idle with blkOut := o, status := 0, faultInfo := 0 } }

/-- `s` after `RAISE` (R253) with a `STATUS` code and a `FAULT_INFO` value. -/
def State.raised (s : State) (isDecode : Bool) (code info : Byte) : State :=
  { s with
    unit :=
      { s.unit.idle with
        result := if isDecode then false else s.unit.result
        status := code
        faultInfo := info
        faultSeen := true } }

/-- The machine after a list of accesses, each of which is answered with a next state (R62: in the order they are made). -/
def runAccesses (s : State) (es : List HostEvent) : Option State :=
  match es with
  | [] => some s
  | e :: rest =>
    match hostAccess s e with
    | .next t => runAccesses t rest
    | .fault _ => none
    | .refused _ => none

/-- `CTRL`, `FMT` and the registers the entry of R220 reads are written, both arguments are present, and the registers
hold the geometry `g`. -/
structure EntryReady (u : DecodeUnit) (g : Geometry) : Prop where
  present : ∃ c, u.ctrl = some c ∧ c.getLsbD 0 = true ∧ c.getLsbD 1 = true
  fmt : u.fmt.isSome = true
  texW : u.texW.map BitVec.toNat = some g.texW
  texH : u.texH.map BitVec.toNat = some g.texH
  regX : u.regX.map BitVec.toInt = some g.regX
  regY : u.regY.map BitVec.toInt = some g.regY
  regW : u.regW.map BitVec.toInt = some g.regW
  regH : u.regH.map BitVec.toInt = some g.regH
  tgtW : u.tgtW.map BitVec.toNat = some g.tgtW
  tgtH : u.tgtH.map BitVec.toNat = some g.tgtH

/-- The entry is ready, and `r` is the clipped region of R223 and R224, which is not empty and lies inside the target
(R59). -/
structure RegionReady (u : DecodeUnit) (g : Geometry) (r : Rect) : Prop extends EntryReady u g where
  left : (r.x0 : Int) = max g.regX 0
  right : (r.x1 : Int) = min (g.regX + g.regW) g.texW
  top : (r.y0 : Int) = max g.regY 0
  bottom : (r.y1 : Int) = min (g.regY + g.regH) g.texH
  wide : r.x0 < r.x1
  tall : r.y0 < r.y1
  fitsW : r.x1 ≤ g.tgtW
  fitsH : r.y1 ≤ g.tgtH

/-- The payload of a DXT or ETC image reaches to the end of the last block the region needs (R228). -/
def BlocksReady (u : DecodeUnit) (g : Geometry) (r : Rect) (blockBytes : Nat) : Prop :=
  ∃ len, u.payloadLen = some len ∧
    (((r.y1 + 3) / 4 - 1) * ((g.texW + 3) / 4) + (r.x1 + 3) / 4) * blockBytes ≤ len.toNat

/-- The target `new` holds `pixel x y` at each position of the clipped region, and what `old` held at every other word
(R227): a position `(x, y)` is word `y · TGT_W + x` (R52). -/
def WritesRegion (old new : List (Nat × Word32)) (g : Geometry) (r : Rect) (pixel : Nat → Nat → Pixel) : Prop :=
  (∀ x y, r.contains x y = true → Memory.read new (y * g.tgtW + x) = some (pixel x y).pack) ∧
  ∀ a, (∀ x y, r.contains x y = true → a ≠ y * g.tgtW + x) → Memory.read new a = Memory.read old a

/-- The target memory of the active unit in `ts` holds `pixel x y` at each position of the clipped region and what it held
in `s` at every other word, and every other target memory is as it was in `s` (R227, R286). -/
def WritesTarget (s : State) (ts : List (Nat × List (Nat × Word32))) (g : Geometry) (r : Rect)
    (pixel : Nat → Nat → Pixel) : Prop :=
  WritesRegion s.target (targetOf ts s.unit.binding) g r pixel ∧
  ∀ c, c ≠ s.unit.binding → targetOf ts c = targetOf s.targets c

/-- The `n` payload bytes from address `a` on. -/
def payloadSlice (u : DecodeUnit) (a n : Nat) : List Byte := (List.range n).map fun k => payloadByte u (a + k)

/-- The payload bytes of the block that covers texture position `(x, y)` (R226). -/
def blockBytesAt (u : DecodeUnit) (texW blockBytes x y : Nat) : List Byte :=
  payloadSlice u ((y / 4 * ((texW + 3) / 4) + x / 4) * blockBytes) blockBytes

/-- The PVRTC word of the grid at column `a` and row `b` (R195). -/
def wordAt (u : DecodeUnit) (nx ny a b : Nat) : PvrtcWord := pvrtcWord (payloadSlice u (8 * twiddle nx ny a b) 8)

/-- The pixel of the padded PVRTC image at `(x, y)` (R196): the one quad whose tile covers it has its top-left word half a
word to the left and above, wrapping at the edges. -/
def imagePixel (u : DecodeUnit) (ww nx ny x y : Nat) : Pixel :=
  let cx := x + nx * ww - ww / 2
  let cy := y + ny * 4 - 2
  let px := cx / ww % nx
  let qx := (cx / ww + 1) % nx
  let py := cy / 4 % ny
  let ry := (cy / 4 + 1) % ny
  quadPixel ww
    { p := wordAt u nx ny px py, q := wordAt u nx ny qx py, r := wordAt u nx ny px ry, s := wordAt u nx ny qx ry }
    (cx % ww) (cy % 4)

/-- The pixel of a texture of width `texW` and height `texH` in a PVRTC format (R194, R196). -/
def texturePixel (u : DecodeUnit) (f : PvrtcFormat) (texW texH x y : Nat) : Pixel :=
  imagePixel u f.wordWidth (max ((texW + (f.wordWidth - 1)) / f.wordWidth) 2) (max ((texH + 3) / 4) 2) x y

/-- The payload of a PVRTC image reaches to the end of its last word, and `INFO_ID` is `id` (R197, R208). -/
def ImageReady (u : DecodeUnit) (g : Geometry) (f : PvrtcFormat) (id : Word32) : Prop :=
  u.infoId = some id ∧ ∃ len, u.payloadLen = some len ∧
    pvrtcNeed (max ((g.texW + (f.wordWidth - 1)) / f.wordWidth) 2) (max ((g.texH + 3) / 4) 2) ≤ len.toNat

/-- The cache holds under `id` the image that the unit `u` decodes: the whole texture in the format `f` (R197, R263). -/
def HoldsImage (c : List CacheEntry) (id : Word32) (u : DecodeUnit) (f : PvrtcFormat) (g : Geometry) : Prop :=
  ∃ e ∈ c, e.key = id ∧ e.bitmap.width = g.texW ∧ e.bitmap.height = g.texH ∧
    ∀ x y, x < g.texW → y < g.texH → e.bitmap.pixel x y = some (texturePixel u f g.texW g.texH x y)

/-- The format word is custom, or its code is in `KNOWN_FORMATS` (R72, R73). -/
def FormatKnown (p : Config.Params) (fmt : Word64) : Prop := 2 ^ 32 ≤ fmt.toNat ∨ fmt.toNat ∈ p.knownFormats

/-- The DXT DECODE commands with their format codes (R72). -/
def dxtDecodes : List (Instr × DxtFormat × Nat) := [(.decodeDxt1, .dxt1, 7), (.decodeDxt3, .dxt3, 9), (.decodeDxt5, .dxt5, 11)]

/-- The ETC DECODE commands with their format codes (R72). -/
def etcDecodes : List (Instr × EtcFormat × Nat) :=
  [(.decodeEtc1, .etc1, 6), (.decodeEtc2Rgb, .rgb, 22), (.decodeEtc2Rgba, .rgba, 23), (.decodeEtc2RgbA1, .rgbA1, 24)]

/-- The PVRTC DECODE commands with their format codes (R72). -/
def pvrtcDecodes : List (Instr × PvrtcFormat × Nat) :=
  [(.decodePvrtc2bppRgb, .rgb2, 0), (.decodePvrtc2bppRgba, .rgba2, 1), (.decodePvrtc4bppRgb, .rgb4, 2),
   (.decodePvrtc4bppRgba, .rgba4, 3)]

/-- The DECODE commands of the named formats with no decoder, with their codes (R243). -/
def fallbackDecodes : List (Instr × Nat) :=
  [(.decodeFallbackPvrtcII2bpp, 4), (.decodeFallbackPvrtcII4bpp, 5), (.decodeFallbackDxt2, 8), (.decodeFallbackDxt4, 10),
   (.decodeFallbackBc4, 12), (.decodeFallbackBc5, 13), (.decodeFallbackBc6, 14), (.decodeFallbackBc7, 15),
   (.decodeFallbackUyvy, 16), (.decodeFallbackYuy2, 17), (.decodeFallbackBw1bpp, 18), (.decodeFallbackR9g9b9e5, 19),
   (.decodeFallbackRgbg8888, 20), (.decodeFallbackGrgb8888, 21), (.decodeFallbackEacR11, 25),
   (.decodeFallbackEacRg11, 26)]

/-- The DXT BLOCK commands with their format codes (R234). -/
def dxtBlocks : List (Instr × DxtFormat × Nat) := [(.blockDxt1, .dxt1, 7), (.blockDxt3, .dxt3, 9), (.blockDxt5, .dxt5, 11)]

/-- The ETC BLOCK commands with their format codes (R234). -/
def etcBlocks : List (Instr × EtcFormat × Nat) :=
  [(.blockEtc1, .etc1, 6), (.blockEtc2Rgb, .rgb, 22), (.blockEtc2Rgba, .rgba, 23), (.blockEtc2RgbA1, .rgbA1, 24)]

/-- The PVRTC BLOCK commands with their format codes (R234). -/
def pvrtcBlocks : List (Instr × PvrtcFormat × Nat) :=
  [(.blockPvrtc2bppRgb, .rgb2, 0), (.blockPvrtc2bppRgba, .rgba2, 1), (.blockPvrtc4bppRgb, .rgb4, 2),
   (.blockPvrtc4bppRgba, .rgba4, 3)]

/-- The DECODE commands: the well-formed instructions whose `CMD` word is 0 (R70). -/
def isDecodeCommand (i : Instr) : Bool := i.wellFormed && encodeCmd i == 0

/-- The BLOCK commands: the instructions whose `CMD` word is 1 (R70). -/
def isBlockCommand (i : Instr) : Bool := i.wellFormed && encodeCmd i == 1

/-- The registers the DECODE entry reads once the format is known, in their order (R220, R259). -/
def entryRegisters : List ConfigReg := [.texW, .texH, .regX, .regY, .regW, .regH, .tgtW, .tgtH]

/-- An ETC DECODE is decoded only where `ETC_ROUTED` holds (R230); the other formats do not depend on it. -/
def Routed (p : Config.Params) (code : Nat) : Prop := code ∈ [6, 22, 23, 24] → p.etcRouted = true

/-- The DXT and ETC formats: the DECODE, the BLOCK, the block size and the code (R72). -/
def blockFormats : List (Instr × Instr × Nat × Nat) :=
  [(.decodeDxt1, .blockDxt1, 8, 7), (.decodeDxt3, .blockDxt3, 16, 9), (.decodeDxt5, .blockDxt5, 16, 11),
   (.decodeEtc1, .blockEtc1, 8, 6), (.decodeEtc2Rgb, .blockEtc2Rgb, 8, 22), (.decodeEtc2Rgba, .blockEtc2Rgba, 16, 23),
   (.decodeEtc2RgbA1, .blockEtc2RgbA1, 8, 24)]

/-- The PVRTC formats: the DECODE, the BLOCK, the format and the code (R72). -/
def quadFormats : List (Instr × Instr × PvrtcFormat × Nat) :=
  [(.decodePvrtc2bppRgb, .blockPvrtc2bppRgb, .rgb2, 0), (.decodePvrtc2bppRgba, .blockPvrtc2bppRgba, .rgba2, 1),
   (.decodePvrtc4bppRgb, .blockPvrtc4bppRgb, .rgb4, 2), (.decodePvrtc4bppRgba, .blockPvrtc4bppRgba, .rgba4, 3)]

/-- The bytes of the four words `P, Q, R, S` of the quad whose tile covers `(x, y)` of the padded image, as `BLK_IN`
takes them (R74, R196). -/
def quadBytesAt (u : DecodeUnit) (ww nx ny x y : Nat) : List Byte :=
  let cx := (x + nx * ww - ww / 2) / ww
  let cy := (y + ny * 4 - 2) / 4
  payloadSlice u (8 * twiddle nx ny (cx % nx) (cy % ny)) 8 ++
    payloadSlice u (8 * twiddle nx ny ((cx + 1) % nx) (cy % ny)) 8 ++
    payloadSlice u (8 * twiddle nx ny (cx % nx) ((cy + 1) % ny)) 8 ++
    payloadSlice u (8 * twiddle nx ny ((cx + 1) % nx) ((cy + 1) % ny)) 8

/-- The unit `u` with the 32-bit configuration registers of `v` (R25 to R34) and everything else of its own. -/
def DecodeUnit.withRegistersOf (u v : DecodeUnit) : DecodeUnit :=
  { u with
    flags := v.flags, cspace := v.cspace, chtype := v.chtype, texW := v.texW, texH := v.texH, texDepth := v.texDepth
    surfaces := v.surfaces, faces := v.faces, mipmaps := v.mipmaps, payloadLen := v.payloadLen, infoId := v.infoId
    regX := v.regX, regY := v.regY, regW := v.regW, regH := v.regH, tgtW := v.tgtW, tgtH := v.tgtH, ctrl := v.ctrl }

/-- The host accesses that write no configuration register (R24 to R34): all but the register writes themselves, the two
loads that set registers, the RESET, and the turn to another unit. -/
def keepsConfiguration : HostEvent → Bool
  | .setFmt _ => false
  | .set _ _ => false
  | .writeBlkIn _ _ => true
  | .loadBlkIn _ => true
  | .writePayload _ _ => true
  | .loadPayload _ => false
  | .writeTarget _ _ => true
  | .loadContainer _ => false
  | .read _ => true
  | .select _ => false
  | .gap _ => true
  | .reset => false
  | .bindTarget _ => true
  | .cmd _ => true
  | .start _ => true
  | .proceed _ => true

/-- The `n` bytes of a value, least significant first (R55). -/
def leBytes (n v : Nat) : List Byte := (List.range n).map fun k => BitVec.ofNat 8 (v / 256 ^ k)

/-- The container of the fields `h` (R76). -/
def containerOf (h : Header) : List Byte :=
  leBytes 4 0x03525650 ++ leBytes 4 h.flags.toNat ++ leBytes 8 h.fmt.toNat ++ leBytes 4 h.cspace.toNat ++
    leBytes 4 h.chtype.toNat ++ leBytes 4 h.texH.toNat ++ leBytes 4 h.texW.toNat ++ leBytes 4 h.texDepth.toNat ++
    leBytes 4 h.surfaces.toNat ++ leBytes 4 h.faces.toNat ++ leBytes 4 h.mipmaps.toNat ++
    leBytes 4 h.metadata.length ++ h.metadata ++ h.payload

/-- The first `n` bytes of `BLK_IN` are written and hold `bytes` (R35, R74). -/
def LatchHolds (u : DecodeUnit) (n : Nat) (bytes : List Byte) : Prop := u.blkIn.toList.take n = bytes.map some

end Sys2Proof.Machine
end

