-- ==== Sys2Proof/Certificates/Slice0/Obligations.lean ====
section
/-! DEFINITION. The statements for the provers, in the order of OBLIGATIONS.json. -/

section

open Sys2Proof Sys2Proof.Machine

/-! ## Encoding and the step -/

/-- R70 to R73, R99: dispatch words written out from the table decode to their rows. -/
def Obligations.TableWordsDecode : Prop :=
  decodeWord 0x000000000000000700000000 = .decodeDxt1 ∧
  decodeWord 0x000000000000001800000000 = .decodeEtc2RgbA1 ∧
  decodeWord 0x000000000000000200000000 = .decodePvrtc4bppRgb ∧
  decodeWord 0x000000000000000c00000000 = .decodeFallbackBc4 ∧
  decodeWord 0x000000010000000000000000 = .decodeFallbackCustom 0x100000000 ∧
  decodeWord 0x000000000000001b00000000 = .decodeUnsupported 27 ∧
  decodeWord 0x000000000000000b00000001 = .blockDxt5 ∧
  decodeWord 0x000000000000001700000001 = .blockEtc2Rgba ∧
  decodeWord 0x000000000000000100000001 = .blockPvrtc2bppRgba ∧
  decodeWord 0x000000000000000400000001 = .blockIllegal 4 ∧
  decodeWord 0xffffffffffffffff00000002 = .flush ∧
  decodeWord 0x000000000000000700000010 = .illegalCmd 16

/-- The decoder reads back every well-formed instruction from its encoding (R71). -/
def Obligations.EncodeDecodeRoundTrip : Prop := ∀ i : Instr, i.wellFormed = true → decodeWord (encode i) = i

/-- R71: every dispatch word decodes to a well-formed instruction, and "a row applies when CW & mask = match". -/
def Obligations.DecodedRowApplies : Prop :=
  ∀ cw : DispatchWord,
    (decodeWord cw).wellFormed = true ∧ cw &&& rowMask (decodeWord cw) = rowMatch (decodeWord cw)

/-- R70, R71: a DECODE or a BLOCK keeps every bit of its dispatch word, and every command keeps its `CMD` word. -/
def Obligations.DecodeDropsNoBit : Prop :=
  ∀ (f : Word64) (w : Word32),
    (w = 0 ∨ w = 1 → encode (decodeWord (f ++ w)) = f ++ w) ∧ encodeCmd (decodeWord (f ++ w)) = w

/-- R36, R71: a host write of `CMD` runs the instruction that the dispatch word decodes to, on the registers as they
stand, where no command is in progress on the unit (R268). The model's choices are that the access leaves the queue of
accesses to come (log 3) and that `CMD` holds the word while the command runs (log 16). -/
def Obligations.StepRunsDecodedCommand : Prop :=
  ∀ (s : State) (f : Word64) (w : Word32) (rest : List HostEvent), s.host = .cmd w :: rest → s.unit.fmt = some f →
    s.unit.cmd = none →
    (decodeWord (f ++ w)).wellFormed = true ∧
    step s = exec (decodeWord (f ++ w)) { s with host := rest, unit := { s.unit with cmd := some w } }

/-- Log 1 (DESIGN CHOICE): while `FMT` is unwritten the step takes 0 for the `FMT` half of the dispatch word, and no
command of any family depends on that half. -/
def Obligations.UnwrittenFmtChoosesNothing : Prop :=
  ∀ (s : State) (w : Word32), s.unit.fmt = none →
    (∀ f f' : Word64, exec (decodeWord (f ++ w)) s = exec (decodeWord (f' ++ w)) s) ∧
    ∀ rest, s.host = .cmd w :: rest → s.unit.cmd = none →
      step s = exec (decodeWord ((0 : Word64) ++ w)) { s with host := rest, unit := { s.unit with cmd := some w } }

/-- R273: while the host makes no access the machine keeps every register and the cache. That such a step is taken at all
is the model's choice (log 21). -/
def Obligations.IdleStepKeepsState : Prop := ∀ s : State, s.host = [] → step s = .next s

/-! ## Reset and the invariant -/

/-- R44: the reset values of every register, of the latches and of the cache. -/
def Obligations.ResetValues : Prop :=
  State.reset.unit.fmt = none ∧ (∀ r, State.reset.unit.config r = none) ∧
  (∀ i, State.reset.unit.blkIn.get i = none) ∧ State.reset.unit.cmd = none ∧ State.reset.unit.result = false ∧
  State.reset.unit.status = 0 ∧ State.reset.unit.faultSeen = false ∧ State.reset.unit.faultInfo = 0 ∧
  (∀ i, State.reset.unit.blkOut.get i = none) ∧ State.reset.unit.cursor = none ∧ State.reset.unit.idle = State.reset.unit ∧
  State.reset.cache = [] ∧
  hostRead State.reset .cacheCount = .word 0 ∧ hostRead State.reset .cacheKeys = .keys [] ∧
  (∀ i, hostRead State.reset (.blkOut i) = .noValue)

/-- R280: the RESET acts on every unit and on the cache, and changes neither memory; while a command is in progress on any
unit it is refused, which R280 puts outside the model. That it keeps a unit's target binding is the model's choice (log 29). -/
def Obligations.ResetActsOnEveryUnit : Prop :=
  (∀ (s : State) (rest : List HostEvent), s.host = .reset :: rest →
    (s.unit.cmd ≠ none ∨ ∃ p ∈ s.peers, p.2.cmd ≠ none) → step s = .refused .commandInProgress) ∧
  ∀ (s : State) (rest : List HostEvent), s.host = .reset :: rest → s.unit.cmd = none → (∀ p ∈ s.peers, p.2.cmd = none) →
    ∃ t, step s = .next t ∧ t.cache = [] ∧ t.targets = s.targets ∧
      ∀ k u, s.unitOf k = some u →
        ∃ v, t.unitOf k = some v ∧ v.fmt = none ∧ (∀ r, v.config r = none) ∧ (∀ i, v.blkIn.get i = none) ∧
          v.result = false ∧ v.status = 0 ∧ v.faultInfo = 0 ∧ v.faultSeen = false ∧ (∀ i, v.blkOut.get i = none) ∧
          v.cmd = none ∧ v.cursor = none ∧ v.idle = v ∧ v.payload = u.payload ∧ v.binding = u.binding

/-- The machine after reset meets the invariant. -/
def Obligations.ResetMeetsInvariant : Prop := State.reset.Inv

/-- The invariant that every step keeps, from every state that meets it: each unit is idle, or its command in progress is a
DECODE whose pixel writes still to be made lie inside its target array (R59) and whose insertion goes under its
`INFO_ID` (R197); its `STATUS`, `FAULT_INFO`, `FAULT_SEEN` and `RESULT` stand in a combination of R250; the memories keep
their canonical form; the cache holds at most 8 entries with distinct keys (R42, R263), and the units keep distinct numbers
(R271). That an idle unit's `CMD` and cursor are empty is log 16, and what a command in progress holds is log 30. -/
def Obligations.StepKeepsInvariant : Prop := ∀ s t : State, s.Inv → step s = .next t → t.Inv

/-! ## What every command does and does not -/

/-- R232: "The unit never writes a configuration register. A host read of one returns the value the host last wrote." -/
def Obligations.ConfigurationIsTheHosts : Prop :=
  (∀ (i : Instr) (s t : State), exec i s = .next t →
    t.unit.fmt = s.unit.fmt ∧ (∀ r, t.unit.config r = s.unit.config r) ∧ t.unit.blkIn = s.unit.blkIn) ∧
  (∀ (s : State) (r : ConfigReg) (v : Word32) (rest : List HostEvent), s.host = .set r v :: rest → s.unit.cmd = none →
    ∃ t, step s = .next t ∧ hostRead t (.config r) = .word (v.setWidth 64) ∧ t.unit.fmt = s.unit.fmt ∧
      ∀ q, q ≠ r → t.unit.config q = s.unit.config q) ∧
  (∀ (s : State) (v : Word64) (rest : List HostEvent), s.host = .setFmt v :: rest → s.unit.cmd = none →
    ∃ t, step s = .next t ∧ hostRead t .fmt = .word v ∧ ∀ q, t.unit.config q = s.unit.config q) ∧
  ∀ (s t : State) (e : HostEvent) (rest : List HostEvent), s.host = e :: rest → keepsConfiguration e = true →
    step s = .next t → t.unit.fmt = s.unit.fmt ∧ ∀ r, t.unit.config r = s.unit.config r

/-- R58, R59, R253: the checks come before the accesses, so no command, in any state, reaches outside the payload or the
target, whether it runs whole or is left in progress; such an access would be the model's own fault (log 10). -/
def Obligations.CommandsStayInBounds : Prop :=
  (∀ (i : Instr) (s : State) (f : Fault), exec i s ≠ .fault f) ∧ ∀ (s : State) (f : Fault), step s ≠ .fault f

/-- R287: a PVRTC DECODE is refused where it hits a bitmap that lacks a pixel of the region, and no other command is ever
refused (log 11). -/
def Obligations.OnlyStaleHitsAreRefused : Prop :=
  (∀ (i : Instr) (s : State) (q : Refusal), i.wellFormed = true → exec i s = .refused q →
    q = .bitmapTooSmall ∧ ∃ p ∈ pvrtcDecodes, i = p.1 ∧ ∃ e ∈ s.cache, s.unit.infoId = some e.key ∧
      ∃ g r x y, RegionReady s.unit g r ∧ r.contains x y = true ∧ e.bitmap.pixel x y = none) ∧
  ∀ p ∈ pvrtcDecodes, ∀ (s : State) (g : Geometry) (r : Rect) (e : CacheEntry) (x y : Nat),
    RegionReady s.unit g r → p.2.2 ∈ s.params.knownFormats → ImageReady s.unit g p.2.1 e.key →
    (cacheKeys s.cache).Nodup → e ∈ s.cache → r.contains x y = true → e.bitmap.pixel x y = none →
    exec p.1 s = .refused .bitmapTooSmall

/-- R235, R250: every command that ends changes no payload byte, no target binding, no target memory of another binding and
no other unit, and leaves the unit idle (that `CMD` and the cursor are then empty is log 16) with a legal outcome; one that completes leaves `FAULT_SEEN`
alone and writes `RESULT` where it is a DECODE, and one that raises sets `FAULT_SEEN` and clears a DECODE's `RESULT`. -/
def Obligations.EveryCommandCompletesOrRaises : Prop :=
  ∀ (i : Instr) (s t : State), i.wellFormed = true → exec i s = .next t →
    t.unit.payload = s.unit.payload ∧ t.peers = s.peers ∧ t.unitId = s.unitId ∧ t.params = s.params ∧ t.host = s.host ∧
    t.unit.binding = s.unit.binding ∧ (∀ b, b ≠ s.unit.binding → targetOf t.targets b = targetOf s.targets b) ∧
    t.unit.cmd = none ∧ t.unit.cursor = none ∧ t.unit.idle = t.unit ∧
    legalOutcome t.unit.status t.unit.faultInfo = true ∧
    ((isRaiseStatus t.unit.status = false ∧ t.unit.faultInfo = 0 ∧ t.unit.faultSeen = s.unit.faultSeen ∧
        (isDecodeCommand i = true → t.unit.result = decide (t.unit.status ≠ 4)) ∧
        (isDecodeCommand i = false → t.unit.status = 0 ∧ t.unit.result = s.unit.result)) ∨
     (isRaiseStatus t.unit.status = true ∧ t.unit.faultSeen = true ∧
        t.unit.result = if isDecodeCommand i then false else s.unit.result))

/-- R253: a raise writes `STATUS`, `FAULT_INFO`, `FAULT_SEEN` and a DECODE's `RESULT`, ends the command, and changes
nothing else: no pixel, no `BLK_OUT` entry, no cache entry. -/
def Obligations.RaisesArePrecise : Prop :=
  ∀ (i : Instr) (s t : State), i.wellFormed = true → exec i s = .next t → isRaiseStatus t.unit.status = true →
    t = s.raised (isDecodeCommand i) t.unit.status t.unit.faultInfo

/-- R39: a command that raises sets `FAULT_SEEN`; nothing but a RESET clears it, in any unit; its reset value is 0. -/
def Obligations.FaultSeenIsSticky : Prop :=
  (∀ (i : Instr) (s t : State), exec i s = .next t → isRaiseStatus t.unit.status = true → t.unit.faultSeen = true) ∧
  (∀ (s t : State) (k : Nat) (u : DecodeUnit), (s.unitId :: s.peers.map Prod.fst).Nodup → step s = .next t →
    (∀ rest, s.host ≠ .reset :: rest) → s.unitOf k = some u → u.faultSeen = true →
    ∃ v, t.unitOf k = some v ∧ v.faultSeen = true) ∧
  State.reset.unit.faultSeen = false

/-- R199, R227, R253: a command run again on the state it left leaves that state: a PVRTC DECODE that missed now hits and
writes the same pixels, and the order of the cache stays as it is. No other unit acts in between (log 9). -/
def Obligations.CommandsAreIdempotent : Prop :=
  ∀ (i : Instr) (s t : State), targetsWf s.targets = true → CacheInv s.cache → s.gapOps = [] →
    exec i s = .next t → exec i t = .next t

/-! ## The DECODE entry -/

/-- R222: a null argument ends a DECODE with `RESULT = 0` and `STATUS = 4`; nothing else changes and no other register
counts. -/
def Obligations.NullArgumentsReturnFalse : Prop :=
  ∀ (i : Instr) (s : State) (c : Word32), isDecodeCommand i = true → s.unit.ctrl = some c →
    c.getLsbD 0 = false ∨ c.getLsbD 1 = false →
    exec i s = .next { s with
      unit := { s.unit.idle with result := false, status := 4, faultInfo := 0 } }

/-- R257, R259: a DECODE raises `UnsetConfig` with the id of the first unwritten register in the order of R220. -/
def Obligations.DecodeRaisesForUnsetRegister : Prop :=
  ∀ (i : Instr) (s : State), isDecodeCommand i = true →
    (s.unit.ctrl = none → exec i s = .next (s.raised true 7 19)) ∧
    ∀ c, s.unit.ctrl = some c → c.getLsbD 0 = true → c.getLsbD 1 = true →
      (s.unit.fmt = none → exec i s = .next (s.raised true 7 1)) ∧
      (s.unit.fmt.isSome = true → FormatKnown s.params (encodeFmt i) →
        ∀ k, k < 8 → (∀ j, j < k → s.unit.config (entryRegisters.getD j .ctrl) ≠ none) →
          s.unit.config (entryRegisters.getD k .ctrl) = none →
          exec i s = .next (s.raised true 7 (([5, 6, 13, 14, 15, 16, 17, 18] : List Byte).getD k 0)))

/-- R252: a DECODE of an unknown code raises `UnsupportedFormat`, before any register but `CTRL` and `FMT` counts; in
particular `DECODE.UNSUPPORTED` with the default `KNOWN_FORMATS`. -/
def Obligations.UnknownFormatRaises : Prop :=
  (∀ (i : Instr) (s : State) (c : Word32), isDecodeCommand i = true → s.unit.ctrl = some c → c.getLsbD 0 = true →
    c.getLsbD 1 = true → s.unit.fmt.isSome = true → ¬ FormatKnown s.params (encodeFmt i) →
    exec i s = .next (s.raised true 2 0)) ∧
  ∀ (code : Word32) (s : State) (c : Word32), 26 < code.toNat → s.params.knownFormats = List.range 27 →
    s.unit.ctrl = some c → c.getLsbD 0 = true → c.getLsbD 1 = true → s.unit.fmt.isSome = true →
    exec (.decodeUnsupported code) s = .next (s.raised true 2 0)

/-- R224, R255: an empty region completes with `RESULT = 1`, `STATUS` 0 or, for class FALLBACK, 3, and changes nothing
else; neither the target size nor the payload counts. A code above 26 that `KNOWN_FORMATS` contains is of class FALLBACK
(90_conflicts.md C8; log 15). -/
def Obligations.EmptyRegionCompletes : Prop :=
  ∀ (s : State) (g : Geometry), EntryReady s.unit g →
    (min (g.regX + g.regW) g.texW ≤ max g.regX 0 ∨ min (g.regY + g.regH) g.texH ≤ max g.regY 0) →
    (∀ p ∈ dxtDecodes, p.2.2 ∈ s.params.knownFormats → exec p.1 s = .next (s.decodeDone s.targets 0)) ∧
    (∀ p ∈ pvrtcDecodes, p.2.2 ∈ s.params.knownFormats → exec p.1 s = .next (s.decodeDone s.targets 0)) ∧
    (∀ p ∈ etcDecodes, p.2.2 ∈ s.params.knownFormats →
      exec p.1 s = .next (s.decodeDone s.targets (if s.params.etcRouted then 0 else 3))) ∧
    (∀ p ∈ fallbackDecodes, p.2 ∈ s.params.knownFormats → exec p.1 s = .next (s.decodeDone s.targets 3)) ∧
    (∀ fmt : Word64, 2 ^ 32 ≤ fmt.toNat →
      exec (.decodeFallbackCustom fmt) s = .next (s.decodeDone s.targets 3)) ∧
    ∀ code : Word32, 26 < code.toNat → code.toNat ∈ s.params.knownFormats →
      exec (.decodeUnsupported code) s = .next (s.decodeDone s.targets 3)

/-- R59, R254: a clipped region that is not empty and not inside the target raises `DecodeFault(TARGET_OVERRUN)`. -/
def Obligations.TargetOverrunRaises : Prop :=
  ∀ (i : Instr) (s : State) (g : Geometry), isDecodeCommand i = true → FormatKnown s.params (encodeFmt i) →
    EntryReady s.unit g → max g.regX 0 < min (g.regX + g.regW) g.texW →
    max g.regY 0 < min (g.regY + g.regH) g.texH →
    ((g.tgtW : Int) < min (g.regX + g.regW) g.texW ∨ (g.tgtH : Int) < min (g.regY + g.regH) g.texH) →
    exec i s = .next (s.raised true 5 2)

/-- R58, R228, R254, R259: once the region is ready, a DXT or routed ETC DECODE raises for an unwritten `PAYLOAD_LEN` and
then for a payload that ends before the last block it reads. -/
def Obligations.BlockPayloadChecks : Prop :=
  ∀ p ∈ blockFormats, ∀ (s : State) (g : Geometry) (r : Rect), RegionReady s.unit g r →
    p.2.2.2 ∈ s.params.knownFormats → Routed s.params p.2.2.2 →
    (s.unit.payloadLen = none → exec p.1 s = .next (s.raised true 7 11)) ∧
    ∀ len, s.unit.payloadLen = some len →
      len.toNat < (((r.y1 + 3) / 4 - 1) * ((g.texW + 3) / 4) + (r.x1 + 3) / 4) * p.2.2.1 →
      exec p.1 s = .next (s.raised true 5 1)

/-- R197, R208, R254, R259: once the region is ready, a PVRTC DECODE raises for an unwritten `PAYLOAD_LEN`, then for an
unwritten `INFO_ID`, then for a payload shorter than `PVRTC_NEED`, on a hit as on a miss. -/
def Obligations.ImagePayloadChecks : Prop :=
  ∀ p ∈ pvrtcDecodes, ∀ (s : State) (g : Geometry) (r : Rect), RegionReady s.unit g r →
    p.2.2 ∈ s.params.knownFormats →
    (s.unit.payloadLen = none → exec p.1 s = .next (s.raised true 7 11)) ∧
    ∀ len, s.unit.payloadLen = some len →
      (s.unit.infoId = none → exec p.1 s = .next (s.raised true 7 12)) ∧
      (s.unit.infoId ≠ none →
        len.toNat < pvrtcNeed (max ((g.texW + (p.2.1.wordWidth - 1)) / p.2.1.wordWidth) 2) (max ((g.texH + 3) / 4) 2) →
        exec p.1 s = .next (s.raised true 5 1))

/-! ## What each DECODE computes -/

/-- R226, R228, R236 to R238: `DECODE.DXT1`, `DECODE.DXT3` and `DECODE.DXT5` complete, and write each pixel of the clipped
region from the block that covers it; every other word of every target memory, every register but `RESULT`, `STATUS` and
`FAULT_INFO`, and the cache stay as they were. -/
def Obligations.DxtDecodeWritesRegion : Prop :=
  ∀ p ∈ dxtDecodes, ∀ (s : State) (g : Geometry) (r : Rect), RegionReady s.unit g r →
    p.2.2 ∈ s.params.knownFormats → BlocksReady s.unit g r p.2.1.blockBytes →
    ∃ ts, exec p.1 s = .next (s.decodeDone ts 0) ∧
      WritesTarget s ts g r fun x y =>
        dxtPixel p.2.1 (blockBytesAt s.unit g.texW p.2.1.blockBytes x y) (4 * (y % 4) + x % 4)

/-- R228, R230, R239 to R242: the four ETC DECODE commands, with `ETC_ROUTED`, in the same way. -/
def Obligations.EtcDecodeWritesRegion : Prop :=
  ∀ p ∈ etcDecodes, ∀ (s : State) (g : Geometry) (r : Rect), RegionReady s.unit g r →
    p.2.2 ∈ s.params.knownFormats → s.params.etcRouted = true → BlocksReady s.unit g r p.2.1.blockBytes →
    ∃ ts, exec p.1 s = .next (s.decodeDone ts 0) ∧
      WritesTarget s ts g r fun x y =>
        etcPixel p.2.1 (blockBytesAt s.unit g.texW p.2.1.blockBytes x y) (x % 4) (y % 4)

/-- R231, R243: the Fallback commands, the custom DECODE, and the ETC DECODE commands without `ETC_ROUTED` complete with
`STATUS = 3` and write transparent black, the word 0, to the clipped region and nothing else. So does `DECODE.UNSUPPORTED`
of a code above 26 that `KNOWN_FORMATS` contains (90_conflicts.md C8; that its row is the one that decodes is log 15). -/
def Obligations.FallbackFillsRegion : Prop :=
  ∀ (s : State) (g : Geometry) (r : Rect), RegionReady s.unit g r →
    ∀ i : Instr,
      ((∃ p ∈ fallbackDecodes, i = p.1 ∧ p.2 ∈ s.params.knownFormats) ∨
       (∃ p ∈ etcDecodes, i = p.1 ∧ p.2.2 ∈ s.params.knownFormats ∧ s.params.etcRouted = false) ∨
       (∃ fmt : Word64, i = .decodeFallbackCustom fmt ∧ 2 ^ 32 ≤ fmt.toNat) ∨
       (∃ code : Word32, i = .decodeUnsupported code ∧ 26 < code.toNat ∧ code.toNat ∈ s.params.knownFormats)) →
      ∃ ts, exec i s = .next (s.decodeDone ts 3) ∧
        (∀ x y, r.contains x y = true → Memory.read (targetOf ts s.unit.binding) (y * g.tgtW + x) = some 0) ∧
        (∀ a, (∀ x y, r.contains x y = true → a ≠ y * g.tgtW + x) →
          Memory.read (targetOf ts s.unit.binding) a = Memory.read s.target a) ∧
        ∀ c, c ≠ s.unit.binding → targetOf ts c = targetOf s.targets c

/-- R194 to R198, R263, R265: a PVRTC DECODE that misses completes, writes each pixel of the clipped region from the image
pass, and inserts the whole texture under `INFO_ID` after the operations that other units put between its lookup and
its insertion, which the model holds in a field of its own (log 9). -/
def Obligations.PvrtcMissDecodesImage : Prop :=
  ∀ p ∈ pvrtcDecodes, ∀ (s : State) (g : Geometry) (r : Rect) (id : Word32), RegionReady s.unit g r →
    p.2.2 ∈ s.params.knownFormats → ImageReady s.unit g p.2.1 id → id ∉ cacheKeys s.cache →
    ∃ ts bm, exec p.1 s = .next { s.decodeDone ts 0 with
        cache := cacheInsert (cacheApplyAll s.cache s.gapOps) id bm
        gapOps := [] } ∧
      bm.width = g.texW ∧ bm.height = g.texH ∧
      (∀ x y, x < g.texW → y < g.texH → bm.pixel x y = some (texturePixel s.unit p.2.1 g.texW g.texH x y)) ∧
      WritesTarget s ts g r (texturePixel s.unit p.2.1 g.texW g.texH)

/-- R197, R198, R262, R265: a PVRTC DECODE that hits completes, copies the clipped region from the cached bitmap, and
promotes the entry; what other units do after its lookup does not change the copy (log 9). -/
def Obligations.PvrtcHitCopiesBitmap : Prop :=
  ∀ p ∈ pvrtcDecodes, ∀ (s : State) (g : Geometry) (r : Rect) (e : CacheEntry) (pixel : Nat → Nat → Pixel),
    RegionReady s.unit g r → p.2.2 ∈ s.params.knownFormats → ImageReady s.unit g p.2.1 e.key →
    (cacheKeys s.cache).Nodup → e ∈ s.cache →
    (∀ x y, r.contains x y = true → e.bitmap.pixel x y = some (pixel x y)) →
    ∃ ts, exec p.1 s = .next { s.decodeDone ts 0 with
        cache := cacheApplyAll (s.cache.filter (fun d => d.key ≠ e.key) ++ [e]) s.gapOps
        gapOps := [] } ∧
      WritesTarget s ts g r pixel

/-- R199: where the host keeps the identity rule, so that the cached bitmap is the texture's own, a DECODE leaves the same
unit and the same target memories on a hit as on a miss: the same pixels, the same `RESULT` and `STATUS`. -/
def Obligations.HitEqualsMiss : Prop :=
  ∀ p ∈ pvrtcDecodes, ∀ (s : State) (g : Geometry) (r : Rect) (e : CacheEntry), RegionReady s.unit g r →
    p.2.2 ∈ s.params.knownFormats → ImageReady s.unit g p.2.1 e.key → targetsWf s.targets = true →
    (cacheKeys s.cache).Nodup → e ∈ s.cache →
    (∀ x y, x < g.texW → y < g.texH → e.bitmap.pixel x y = some (texturePixel s.unit p.2.1 g.texW g.texH x y)) →
    ∃ t t', exec p.1 s = .next t ∧ exec p.1 { s with cache := [] } = .next t' ∧ t.unit = t'.unit ∧
      t.targets = t'.targets

/-- R229: the pixels a DXT or ETC DECODE writes are those a BLOCK of the same format computes from the block's bytes, and
the pixels a PVRTC DECODE writes on a miss are those a BLOCK computes from the four words of the quad that covers them. -/
def Obligations.BlockEquivalence : Prop :=
  (∀ p ∈ blockFormats, ∀ (s b : State) (g : Geometry) (r : Rect) (x y : Nat), RegionReady s.unit g r →
    p.2.2.2 ∈ s.params.knownFormats → Routed s.params p.2.2.2 → BlocksReady s.unit g r p.2.2.1 →
    r.contains x y = true → p.2.2.2 ∈ b.params.knownFormats → b.unit.fmt.isSome = true →
    LatchHolds b.unit p.2.2.1 (blockBytesAt s.unit g.texW p.2.2.1 x y) →
    ∃ t b' px, exec p.1 s = .next t ∧ exec p.2.1 b = .next b' ∧
      b'.unit.blkOut[4 * (y % 4) + x % 4]? = some (some px) ∧
      Memory.read t.target (y * g.tgtW + x) = some px.pack) ∧
  ∀ p ∈ quadFormats, ∀ (s b : State) (g : Geometry) (r : Rect) (id : Word32) (x y : Nat), RegionReady s.unit g r →
    p.2.2.2 ∈ s.params.knownFormats → ImageReady s.unit g p.2.2.1 id → id ∉ cacheKeys s.cache →
    r.contains x y = true → p.2.2.2 ∈ b.params.knownFormats → b.unit.fmt.isSome = true →
    let ww := p.2.2.1.wordWidth
    let nx := max ((g.texW + (ww - 1)) / ww) 2
    let ny := max ((g.texH + 3) / 4) 2
    LatchHolds b.unit 32 (quadBytesAt s.unit ww nx ny x y) →
    ∃ t b' px, exec p.1 s = .next t ∧ exec p.2.1 b = .next b' ∧
      b'.unit.blkOut[(y + ny * 4 - 2) % 4 * ww + (x + nx * ww - ww / 2) % ww]? = some (some px) ∧
      Memory.read t.target (y * g.tgtW + x) = some px.pack

/-! ## BLOCK, FLUSH and illegal words -/

/-- R119 to R122: the DXT BLOCK commands complete, write the 16 pixels of the block to `BLK_OUT` and leave its other
entries, and change nothing else but `STATUS` and `FAULT_INFO`. -/
def Obligations.DxtBlockWritesLatch : Prop :=
  ∀ p ∈ dxtBlocks, ∀ (s : State) (bytes : List Byte), s.unit.fmt.isSome = true → p.2.2 ∈ s.params.knownFormats →
    LatchHolds s.unit p.2.1.blockBytes bytes →
    ∃ o, exec p.1 s = .next (s.blockDone o) ∧
      ∀ k : Fin 32, o.get k = if k.val < 16 then some (dxtPixel p.2.1 bytes k.val) else s.unit.blkOut.get k

/-- R159 to R163: the ETC BLOCK commands, whatever `ETC_ROUTED` says, in the same way. -/
def Obligations.EtcBlockWritesLatch : Prop :=
  ∀ p ∈ etcBlocks, ∀ (s : State) (bytes : List Byte), s.unit.fmt.isSome = true → p.2.2 ∈ s.params.knownFormats →
    LatchHolds s.unit p.2.1.blockBytes bytes →
    ∃ o, exec p.1 s = .next (s.blockDone o) ∧
      ∀ k : Fin 32, o.get k =
        if k.val < 16 then some (etcPixel p.2.1 bytes (k.val % 4) (k.val / 4)) else s.unit.blkOut.get k

/-- R191, R193, R200 to R203: the PVRTC BLOCK commands write the `WW · 4` pixels of the quad tile, in the same way. -/
def Obligations.PvrtcBlockWritesLatch : Prop :=
  ∀ p ∈ pvrtcBlocks, ∀ (s : State) (bytes : List Byte), s.unit.fmt.isSome = true → p.2.2 ∈ s.params.knownFormats →
    LatchHolds s.unit 32 bytes →
    ∃ o, exec p.1 s = .next (s.blockDone o) ∧
      ∀ k : Fin 32, o.get k =
        if k.val < p.2.1.wordWidth * 4 then
          some (quadPixel p.2.1.wordWidth (latchQuad bytes) (k.val % p.2.1.wordWidth) (k.val / p.2.1.wordWidth))
        else s.unit.blkOut.get k

/-- R257, R260: a BLOCK raises for an unwritten `FMT` first, and a BLOCK of a format with a datapath raises for an
unwritten byte among those the format uses. -/
def Obligations.BlockRaisesForUnsetLatch : Prop :=
  (∀ (i : Instr) (s : State), isBlockCommand i = true → s.unit.fmt = none → exec i s = .next (s.raised false 7 1)) ∧
  ∀ (s : State), s.unit.fmt.isSome = true →
    (∀ p ∈ dxtBlocks, p.2.2 ∈ s.params.knownFormats → none ∈ s.unit.blkIn.toList.take p.2.1.blockBytes →
      exec p.1 s = .next (s.raised false 7 20)) ∧
    (∀ p ∈ etcBlocks, p.2.2 ∈ s.params.knownFormats → none ∈ s.unit.blkIn.toList.take p.2.1.blockBytes →
      exec p.1 s = .next (s.raised false 7 20)) ∧
    (∀ p ∈ pvrtcBlocks, p.2.2 ∈ s.params.knownFormats → none ∈ s.unit.blkIn.toList.take 32 →
      exec p.1 s = .next (s.raised false 7 20))

/-- R256: the two cases of `IllegalCommand`, by the dispatch word and by the instructions that name them. -/
def Obligations.IllegalCommandsRaise : Prop :=
  (∀ (s : State) (f : Word64) (w : Word32), (w.toNat / 16 ≠ 0 ∨ 3 ≤ w.toNat % 16) →
    exec (decodeWord (f ++ w)) s = .next (s.raised false 6 1)) ∧
  (∀ (s : State) (f : Word64), s.unit.fmt = some f →
    (2 ^ 32 ≤ f.toNat ∨ f.toNat ∉ s.params.knownFormats ∨ f.toNat ∉ [0, 1, 2, 3, 6, 7, 9, 11, 22, 23, 24]) →
    exec (decodeWord (f ++ (1 : Word32))) s = .next (s.raised false 6 2)) ∧
  (∀ (s : State) (w : Word32), exec (.illegalCmd w) s = .next (s.raised false 6 1)) ∧
  ∀ (s : State) (f : Word64), (Instr.blockIllegal f).wellFormed = true → s.unit.fmt.isSome = true →
    exec (.blockIllegal f) s = .next (s.raised false 6 2)

/-- R233: FLUSH clears the cache and writes `STATUS` and `FAULT_INFO`; `RESULT`, `FAULT_SEEN` and everything else stay as
they were, and no register need be written. -/
def Obligations.FlushClearsCache : Prop :=
  ∀ s : State,
    exec .flush s = .next { s with
      cache := []
      unit := { s.unit.idle with status := 0, faultInfo := 0 } }

/-- R180, R201, R203, R205, R207: the RGB and RGBA codes of one bit rate decode identically. -/
def Obligations.PvrtcAlphaTagChangesNothing : Prop :=
  ∀ s : State,
    ((0 ∈ s.params.knownFormats ↔ 1 ∈ s.params.knownFormats) →
      exec .decodePvrtc2bppRgba s = exec .decodePvrtc2bppRgb s ∧
      exec .blockPvrtc2bppRgba s = exec .blockPvrtc2bppRgb s) ∧
    ((2 ∈ s.params.knownFormats ↔ 3 ∈ s.params.knownFormats) →
      exec .decodePvrtc4bppRgba s = exec .decodePvrtc4bppRgb s ∧
      exec .blockPvrtc4bppRgba s = exec .blockPvrtc4bppRgb s)

/-! ## The datapaths -/

/-- R158: ETC1 is decoded by the ETC2_RGB rules, in every block and in both commands. -/
def Obligations.EtcOneIsEtcTwoRgb : Prop :=
  (∀ (b : List Byte) (x y : Nat), etcPixel .etc1 b x y = etcPixel .rgb b x y) ∧
  ∀ s : State, (6 ∈ s.params.knownFormats ↔ 22 ∈ s.params.knownFormats) →
    exec .decodeEtc1 s = exec .decodeEtc2Rgb s ∧ exec .blockEtc1 s = exec .blockEtc2Rgb s

/-- R142: the mode of an ETC block, by the sums of the differential fields, red before green before blue; ETC2_RGB_A1 is
always on the differential path. -/
def Obligations.EtcModeSelection : Prop :=
  ∀ (f : EtcFormat) (w : Word64),
    let sum (low : Nat) : Int :=
      (w.toNat / 2 ^ (low + 3) % 32 : Nat) + ((w.toNat / 2 ^ low % 8 : Nat) : Int) - (if w.toNat / 2 ^ low % 8 < 4 then 0 else 8)
    etcMode f w =
      if f ≠ .rgbA1 ∧ w.getLsbD 33 = false then .individual
      else if sum 56 < 0 ∨ 31 < sum 56 then .t
      else if sum 48 < 0 ∨ 31 < sum 48 then .h
      else if sum 40 < 0 ∨ 31 < sum 40 then .planar
      else .differential

/-- R154: with `opaque = 1` an ETC2_RGB_A1 block decodes as ETC2_RGB; with `opaque = 0` index 2 is transparent black in
every mode but planar, and index 0 of the differential mode adds nothing. -/
def Obligations.EtcPunchThroughAlpha : Prop :=
  ∀ (b : List Byte) (x y : Nat), x < 4 → y < 4 →
    let w := etcColourWord .rgbA1 b
    let idx := etcIndex w (4 * x + y)
    let second := inSecondSubBlock w x y
    (w.getLsbD 33 = true →
      etcPixel .rgbA1 b x y = (etcColour .rgb w (etcMode .rgbA1 w) x y).toPixel 255 ∧
      etcPixel .rgbA1 b x y = etcPixel .rgb b x y) ∧
    (w.getLsbD 33 = false →
      (etcMode .rgbA1 w = .planar → etcPixel .rgbA1 b x y = (planarColour w x y).toPixel 255) ∧
      (etcMode .rgbA1 w ≠ .planar → idx = 2 → etcPixel .rgbA1 b x y = transparentBlack) ∧
      (etcMode .rgbA1 w = .t → idx ≠ 2 → etcPixel .rgbA1 b x y = (tPaint w idx).toPixel 255) ∧
      (etcMode .rgbA1 w = .h → idx ≠ 2 → etcPixel .rgbA1 b x y = (hPaint w idx).toPixel 255) ∧
      (etcMode .rgbA1 w = .differential → idx = 0 → etcPixel .rgbA1 b x y = (differentialBase w second).toPixel 255) ∧
      (etcMode .rgbA1 w = .differential → idx = 1 ∨ idx = 3 →
        etcPixel .rgbA1 b x y =
          ((differentialBase w second).addClamp (etcMod (tableSelector w second) idx)).toPixel 255))

/-- R86: the bits that no field of the T, H or planar layout holds do not change a pixel's colour. -/
def Obligations.EtcIgnoredBitsDoNotCount : Prop :=
  ∀ (f : EtcFormat) (w w' : Word64) (x y : Nat), x < 4 → y < 4 →
    ((∀ k, k ∉ [63, 62, 61, 58] → w.getLsbD k = w'.getLsbD k) → etcColour f w .t x y = etcColour f w' .t x y) ∧
    ((∀ k, k ∉ [63, 55, 54, 53, 50] → w.getLsbD k = w'.getLsbD k) → etcColour f w .h x y = etcColour f w' .h x y) ∧
    ((∀ k, k ∉ [63, 55, 47, 46, 45, 42] → w.getLsbD k = w'.getLsbD k) →
      etcColour f w .planar x y = etcColour f w' .planar x y)

/-- R9, R146, R150, R151, R153, R156: every colour channel and every alpha of the ETC datapath lies in `[0, 255]` before
it is narrowed to 8 bits. -/
def Obligations.EtcValuesFitInBytes : Prop :=
  ∀ (f : EtcFormat) (w a : Word64) (m : EtcMode) (x y : Nat),
    (etcColour f w m x y).r ≤ 255 ∧ (etcColour f w m x y).g ≤ 255 ∧ (etcColour f w m x y).b ≤ 255 ∧ eacAlpha a x y ≤ 255

/-- R112, R113, R115: each entry of a DXT colour palette but the clear one lies between the endpoints, channel by channel,
and so does each entry of the DXT5 alpha palette but the fixed 0 and 255; every value fits in 8 bits. -/
def Obligations.DxtPalettesLieBetweenEndpoints : Prop :=
  (∀ (c0v c1v : BitVec 16) (k : Nat), k < 4 → (dxtEntry c0v c1v k).2 = .solid →
    let e := (dxtEntry c0v c1v k).1
    let c0 := u565 c0v
    let c1 := u565 c1v
    (min c0.r c1.r ≤ e.r ∧ e.r ≤ max c0.r c1.r) ∧ (min c0.g c1.g ≤ e.g ∧ e.g ≤ max c0.g c1.g) ∧
      (min c0.b c1.b ≤ e.b ∧ e.b ≤ max c0.b c1.b) ∧ e.r ≤ 255 ∧ e.g ≤ 255 ∧ e.b ≤ 255) ∧
  ∀ a0 a1 k : Nat, a0 ≤ 255 → a1 ≤ 255 → k < 8 →
    dxt5Alpha a0 a1 k ≤ 255 ∧
      (k < 6 ∨ a1 < a0 → min a0 a1 ≤ dxt5Alpha a0 a1 k ∧ dxt5Alpha a0 a1 k ≤ max a0 a1)

/-- R112, R114, R116 to R118: only a DXT1 pixel with code 3 of a three-colour block is transparent; DXT3 and DXT5 take the
colours of the DXT1 rule and, whatever the colour code, their own alpha. The alpha of a DXT3 pixel is 17 times its nibble
(R81: the low nibble of a byte before the high one); that of a DXT5 pixel is the entry of the alpha palette of bytes 0 and
1 that the pixel's three bits of bytes 2 to 7 select (R82). -/
def Obligations.DxtTransparencyIsDxtOneOnly : Prop :=
  (∀ (b : List Byte) (i : Nat),
    if (leWord 16 (byteSlice b 0 2)).toNat ≤ (leWord 16 (byteSlice b 2 2)).toNat ∧
        bits (leWord 32 (byteSlice b 4 4)) (2 * i + 1) (2 * i) = 3
    then dxtPixel .dxt1 b i = transparentBlack
    else (dxtPixel .dxt1 b i).a = 255) ∧
  (∀ (b : List Byte) (i : Nat),
    (dxtPixel .dxt3 b i).r = (dxtPixel .dxt1 (b.drop 8) i).r ∧ (dxtPixel .dxt3 b i).g = (dxtPixel .dxt1 (b.drop 8) i).g ∧
    (dxtPixel .dxt3 b i).b = (dxtPixel .dxt1 (b.drop 8) i).b ∧ (dxtPixel .dxt5 b i).r = (dxtPixel .dxt1 (b.drop 8) i).r ∧
    (dxtPixel .dxt5 b i).g = (dxtPixel .dxt1 (b.drop 8) i).g ∧ (dxtPixel .dxt5 b i).b = (dxtPixel .dxt1 (b.drop 8) i).b) ∧
  ∀ (b : List Byte) (i : Nat), i < 16 →
    (dxtPixel .dxt3 b i).a.toNat = 17 * ((b.getD (i / 2) 0).toNat / 16 ^ (i % 2) % 16) ∧
    (dxtPixel .dxt5 b i).a.toNat =
      dxt5Alpha (b.getD 0 0).toNat (b.getD 1 0).toNat ((leWord 48 (byteSlice b 2 6)).toNat / 8 ^ i % 8)

/-- R185, R189: where the four words of a quad have one endpoint colour, the upscaled endpoint is that colour at every tile
pixel, widened to 8 bits by replication; and where all their A and all their B endpoints are one colour, every tile pixel
has that colour, and its alpha too but at a punched-through pixel, which has alpha 0. -/
def Obligations.UniformQuadKeepsColour : Prop :=
  (∀ (ww : Nat) (c : WordColour) (tx ty : Nat), ww = 4 ∨ ww = 8 → tx < ww → ty < 4 → c.r < 32 → c.g < 32 → c.b < 32 →
    upscale ww c c c c tx ty =
      { r := 8 * c.r + c.r / 4, g := 8 * c.g + c.g / 4, b := 8 * c.b + c.b / 4, a := 17 * c.a }) ∧
  ∀ (ww : Nat) (q : Quad) (c : WordColour) (tx ty : Nat), ww = 4 ∨ ww = 8 → tx < ww → ty < 4 →
    (∀ w ∈ [q.p, q.q, q.r, q.s], colourA w.col = c ∧ colourB w.col = c) →
    quadPixel ww q tx ty =
      { r := BitVec.ofNat 8 (8 * c.r + c.r / 4), g := BitVec.ofNat 8 (8 * c.g + c.g / 4)
        b := BitVec.ofNat 8 (8 * c.b + c.b / 4)
        a := if getMod ww q (tx + ww / 2) (ty + 2) = 14 then 0 else BitVec.ofNat 8 (17 * c.a) }

/-- R188, R200, R202: a 2bpp weight lies in 0 to 8, so no 2bpp pixel is punched through; a 4bpp weight is one of the two
tables', and only a word with `COL[0] = 1` gives 14. -/
def Obligations.ModulationWeights : Prop :=
  ∀ (q : Quad) (gx gy : Nat),
    getMod 8 q gx gy ≤ 8 ∧ getMod 4 q gx gy ∈ [0, 3, 4, 5, 8, 14] ∧
    (getMod 4 q gx gy = 14 → (gridWord 4 q gx gy).col.getLsbD 0 = true)

/-- R181, R182, R185, R189, R190: every endpoint channel has 5 bits and every endpoint alpha 4, every upscaled channel
fits in 8 bits, and so does every blend by a weight of 0 to 8. -/
def Obligations.PvrtcValuesFitInBytes : Prop :=
  (∀ col : Word32, (colourA col).r < 32 ∧ (colourA col).g < 32 ∧ (colourA col).b < 32 ∧ (colourA col).a < 16 ∧
    (colourB col).r < 32 ∧ (colourB col).g < 32 ∧ (colourB col).b < 32 ∧ (colourB col).a < 16) ∧
  (∀ (ww : Nat) (p q r s : WordColour) (tx ty : Nat), ww = 4 ∨ ww = 8 → tx < ww → ty < 4 →
    (∀ c ∈ [p, q, r, s], c.r < 32 ∧ c.g < 32 ∧ c.b < 32 ∧ c.a < 16) →
    (upscale ww p q r s tx ty).r ≤ 255 ∧ (upscale ww p q r s tx ty).g ≤ 255 ∧ (upscale ww p q r s tx ty).b ≤ 255 ∧
      (upscale ww p q r s tx ty).a ≤ 255) ∧
  ∀ a b m : Nat, a ≤ 255 → b ≤ 255 → m ≤ 8 → blendChannel a b m ≤ 255

/-- R195: distinct words of a grid lie at distinct addresses, whatever the grid's shape. R208: for a grid of power-of-two
sides `PVRTC_NEED` is `8 · numX · numY`, so that the words then fill the payload without a gap. -/
def Obligations.TwiddledWordsAreDistinct : Prop :=
  (∀ nx ny x y x' y' : Nat, x < nx → y < ny → x' < nx → y' < ny →
    twiddle nx ny x y = twiddle nx ny x' y' → x = x' ∧ y = y') ∧
  ∀ a b : Nat, pvrtcNeed (2 ^ a) (2 ^ b) = 8 * 2 ^ a * 2 ^ b

/-! ## The cache device -/

/-- R262: a lookup that hits answers the entry's bitmap and moves the entry to the most recently used end; a miss changes
nothing. R263: an insertion appends at the most recently used end; it replaces an entry with its key, and else evicts the
least recently used entry of a full cache. -/
def Obligations.InsertEvictsLeastRecentlyUsed : Prop :=
  (∀ (c : List CacheEntry) (k : Word32), (cacheKeys c).Nodup →
    (∀ e ∈ c, e.key = k → cacheLookup c k = (some e.bitmap, c.filter (fun d => d.key ≠ k) ++ [e])) ∧
    (k ∉ cacheKeys c → cacheLookup c k = (none, c))) ∧
  ∀ (c : List CacheEntry) (k : Word32) (bm : Bitmap), (cacheKeys c).Nodup →
    cacheInsert c k bm =
      (if k ∈ cacheKeys c then c.filter (fun d => d.key ≠ k) else if c.length = 8 then c.tail else c) ++
        [{ key := k, bitmap := bm }]

/-- R266: after insertions of distinct keys the cache holds the last eight, in order; a lookup of the oldest key before
the ninth insertion spares it and evicts the second. -/
def Obligations.CacheKeepsLastEight : Prop :=
  (∀ ks : List (Word32 × Bitmap), (ks.map Prod.fst).Nodup →
    cacheKeys (ks.foldl (fun c p => cacheInsert c p.1 p.2) []) = (ks.map Prod.fst).drop (ks.length - 8)) ∧
  ∀ (c : List CacheEntry) (k k' : Word32) (rest : List Word32) (bm : Bitmap), c.length = 8 → cacheKeys c = k :: rest →
    (cacheKeys c).Nodup → k' ∉ cacheKeys c →
    cacheKeys (cacheInsert (cacheLookup c k).2 k' bm) = rest.tail ++ [k, k']

/-- R265: a FLUSH of another unit between the lookup and the insertion of a miss leaves one entry, the inserted one; an
insertion of the same key there is replaced, so that the key's entry is the unit's own image; and no operation there
changes the unit's own result. The model holds the operations of units it does not hold in a field of its own (log 9). Two
units it holds that both miss on one key both decode the image: each completes and writes its own clipped region of its
own target memory from its own registers and payload, and the second insertion replaces the first (log 30). -/
def Obligations.OperationsInTheGap : Prop :=
  (∀ p ∈ pvrtcDecodes, ∀ (s : State) (g : Geometry) (r : Rect) (id : Word32), RegionReady s.unit g r →
    p.2.2 ∈ s.params.knownFormats → ImageReady s.unit g p.2.1 id → CacheInv s.cache → id ∉ cacheKeys s.cache →
    (∃ t, exec p.1 { s with gapOps := [.flush] } = .next t ∧ cacheKeys t.cache = [id] ∧ HoldsImage t.cache id s.unit p.2.1 g) ∧
    (∀ bm, ∃ t, exec p.1 { s with gapOps := [.insert id bm] } = .next t ∧
      cacheKeys t.cache = cacheKeys (cacheInsert s.cache id bm) ∧ HoldsImage t.cache id s.unit p.2.1 g) ∧
    ∀ ops, ∃ t t', exec p.1 { s with gapOps := ops } = .next t ∧ exec p.1 { s with gapOps := [] } = .next t' ∧
      t.unit = t'.unit ∧ t.targets = t'.targets) ∧
  ∀ p ∈ pvrtcDecodes, ∀ q ∈ pvrtcDecodes, ∀ (s : State) (k : Nat) (v : DecodeUnit) (g g' : Geometry) (r r' : Rect)
    (id : Word32), (s.unitId :: s.peers.map Prod.fst).Nodup → s.unitOf k = some v → k ≠ s.unitId →
    s.unit.cmd = none → v.cmd = none → s.unit.fmt = some (encodeFmt p.1) → v.fmt = some (encodeFmt q.1) →
    RegionReady s.unit g r → RegionReady v g' r' → p.2.2 ∈ s.params.knownFormats → q.2.2 ∈ s.params.knownFormats →
    ImageReady s.unit g p.2.1 id → ImageReady v g' q.2.1 id → CacheInv s.cache → id ∉ cacheKeys s.cache → s.gapOps = [] →
    v.binding ≠ s.unit.binding →
    ∃ t, runAccesses s [.start 0, .select k, .start 0, .proceed .insert, .select s.unitId, .proceed .finish, .select k,
        .proceed .finish, .select s.unitId] = some t ∧
      t.unit = { s.unit.idle with result := true, status := 0, faultInfo := 0 } ∧
      t.unitOf k = some { v.idle with result := true, status := 0, faultInfo := 0 } ∧
      WritesRegion (targetOf s.targets s.unit.binding) (targetOf t.targets s.unit.binding) g r
        (texturePixel s.unit p.2.1 g.texW g.texH) ∧
      WritesRegion (targetOf s.targets v.binding) (targetOf t.targets v.binding) g' r'
        (texturePixel v q.2.1 g'.texW g'.texH) ∧
      (∀ bm, cacheKeys t.cache = cacheKeys (cacheInsert s.cache id bm)) ∧ HoldsImage t.cache id s.unit p.2.1 g

/-! ## Commands that overlap -/

/-- R62, R63: a DECODE left in progress and finished, its insertion and its pixel writes made in any order in between, ends
as the DECODE that runs whole, where no other unit acts; whatever it has done, until it completes it has written no report.
R268, R285: while it is in progress no write to a register, to the latch, to the payload or to the binding of the unit is
admitted, and no command. The ways to leave a command in progress and to let it proceed are the model's choice (log 30). -/
def Obligations.CommandInProgressEndsAsWhole : Prop :=
  (∀ (s : State) (p : Progress), hostAccess s (.proceed p) = .next (s.proceed p)) ∧
  (∀ (s u t : State) (ps : List Progress), s.unit.cmd = none → targetsWf s.targets = true →
    hostAccess s (.start 0) = .next u → hostAccess s (.cmd 0) = .next t →
    (ps.foldl State.proceed u).proceed .finish = t) ∧
  (∀ (s : State), s.unit.cmd = none →
    ((∃ t, hostAccess s (.cmd 0) = .next t) ↔ ∃ u, hostAccess s (.start 0) = .next u) ∧
    (∀ w, w ≠ 0 → hostAccess s (.start w) = hostAccess s (.cmd w)) ∧
    ∀ u, hostAccess s (.start 0) = .next u → u.unit.cmd ≠ none →
      u.targets = s.targets ∧
      ∀ ps : List Progress, let v := ps.foldl State.proceed u
        v.unit.cmd ≠ none →
          v.unit.result = s.unit.result ∧ v.unit.status = s.unit.status ∧ v.unit.faultInfo = s.unit.faultInfo ∧
            v.unit.faultSeen = s.unit.faultSeen ∧ v.unit.blkOut = s.unit.blkOut) ∧
  ∀ (s : State), s.unit.cmd ≠ none →
    (∀ v, hostAccess s (.setFmt v) = .refused .commandInProgress) ∧
    (∀ r v, hostAccess s (.set r v) = .refused .commandInProgress) ∧
    (∀ i v, hostAccess s (.writeBlkIn i v) = .refused .commandInProgress) ∧
    (∀ bytes, hostAccess s (.loadBlkIn bytes) = .refused .commandInProgress) ∧
    (∀ a v, hostAccess s (.writePayload a v) = .refused .commandInProgress) ∧
    (∀ bytes, hostAccess s (.loadPayload bytes) = .refused .commandInProgress) ∧
    (∀ buffer, hostAccess s (.loadContainer buffer) = .refused .commandInProgress) ∧
    (∀ b, hostAccess s (.bindTarget b) = .refused .commandInProgress) ∧
    (∀ w, hostAccess s (.cmd w) = .refused .commandInProgress) ∧
    ∀ w, hostAccess s (.start w) = .refused .commandInProgress

/-- R64, R286: where commands in progress on two units that are bound to one target memory write one word, the word ends
as either unit's value, by the order in which they are finished; and where they share no word the order does not matter.
The model gives the order by the accesses it takes (log 8, log 30). -/
def Obligations.SharedTargetTakesEitherValue : Prop :=
  ∀ (s : State) (k : Nat) (p : DecodeUnit), (s.unitId :: s.peers.map Prod.fst).Nodup → s.unitOf k = some p → k ≠ s.unitId →
    p.binding = s.unit.binding → s.unit.completion.isSome = true → p.completion.isSome = true →
    ∃ t t', runAccesses s [.proceed .finish, .select k, .proceed .finish, .select s.unitId] = some t ∧
      runAccesses s [.select k, .proceed .finish, .select s.unitId, .proceed .finish] = some t' ∧
      (∀ a v, (a, v) ∈ p.writes → (∀ w ∈ p.writes, w.1 = a → w.2 = v) → Memory.read t.target a = some v) ∧
      (∀ a v, (a, v) ∈ s.unit.writes → (∀ w ∈ s.unit.writes, w.1 = a → w.2 = v) → Memory.read t'.target a = some v) ∧
      (targetsWf s.targets = true → (∀ w ∈ s.unit.writes, ∀ w' ∈ p.writes, w.1 ≠ w'.1) → t.targets = t'.targets)

/-! ## The host -/

/-- R76, R251: a container assembled from valid field values is accepted, and the registers and the payload then hold
exactly those values. What it leaves as it was: `INFO_ID`, the region, the target size, `CTRL`, `BLK_IN`, every register a
command writes, the payload bytes past the loaded ones, and everything outside the unit (log 14, log 19). -/
def Obligations.ContainerRoundTrip : Prop :=
  ∀ (s : State) (h : Header) (rest : List HostEvent), h.flags.toNat ≤ 1 → h.cspace.toNat ≤ 1 → h.chtype.toNat ≤ 12 →
    FormatKnown s.params h.fmt → h.metadata.length < 2 ^ 32 → h.payload.length < 2 ^ 32 →
    0 < h.metadata.length + h.payload.length → s.unit.cmd = none →
    s.host = .loadContainer (some (containerOf h)) :: rest →
    parseContainer s.params (some (containerOf h)) = .ok h ∧
    ∃ len m, step s = .next { s with
        host := rest
        unit := { s.unit with
          fmt := some h.fmt, flags := some h.flags, cspace := some h.cspace, chtype := some h.chtype
          texH := some h.texH, texW := some h.texW, texDepth := some h.texDepth, surfaces := some h.surfaces
          faces := some h.faces, mipmaps := some h.mipmaps, payloadLen := some len, payload := m } } ∧
      len.toNat = h.payload.length ∧
      ∀ b, Memory.read m b = if b < h.payload.length then h.payload[b]? else Memory.read s.unit.payload b

/-- R251: a null buffer, one of 52 bytes or fewer, and one whose first four bytes are not the magic are rejected as
`MalformedHeader`. A longer buffer, whether a container of the fields `h` or what is left of one that is cut short, is
rejected in the rule's order: as `MalformedHeader` with flags, colour space or channel type outside its enumeration; with
legal values there, as `UnsupportedFormat` with an unknown code in `FMT`; and all else being legal, as `MalformedHeader`
where it ends before its metadata does. A rejected container changes no unit (log 19). -/
def Obligations.BadContainersAreRejected : Prop :=
  (∀ (p : Config.Params) (buffer : Option (List Byte)),
    (buffer = none ∨ (∃ b, buffer = some b ∧ (b.length ≤ 52 ∨ b.take 4 ≠ [0x50, 0x56, 0x52, 0x03]))) →
    parseContainer p buffer = .error .malformedHeader) ∧
  (∀ (p : Config.Params) (h : Header) (n : Nat), 0 < h.metadata.length + h.payload.length → 52 < n →
    let buffer := some ((containerOf h).take n)
    (1 < h.flags.toNat ∨ 1 < h.cspace.toNat ∨ 12 < h.chtype.toNat → parseContainer p buffer = .error .malformedHeader) ∧
    (h.flags.toNat ≤ 1 → h.cspace.toNat ≤ 1 → h.chtype.toNat ≤ 12 →
      (¬ FormatKnown p h.fmt → parseContainer p buffer = .error .unsupportedFormat) ∧
      (FormatKnown p h.fmt → h.metadata.length < 2 ^ 32 → n < 52 + h.metadata.length →
        parseContainer p buffer = .error .malformedHeader))) ∧
  ∀ (s : State) (buffer : Option (List Byte)) (e : ParseError) (rest : List HostEvent), s.host = .loadContainer buffer :: rest →
    s.unit.cmd = none → parseContainer s.params buffer = .error e → step s = .next { s with host := rest }

/-- R271, R286: the host's turn to another unit moves no unit's state: each number still names the same registers and
bindings, and the target memories stay as they were, so that a unit bound to the same memory finds what another wrote. The
turn is an access of the model's (log 3, log 20). -/
def Obligations.SelectKeepsEveryUnit : Prop :=
  ∀ (s t : State) (k : Nat) (rest : List HostEvent), (s.unitId :: s.peers.map Prod.fst).Nodup →
    s.host = .select k :: rest → step s = .next t →
    t.unitId = k ∧ (∀ n, t.unitOf n = s.unitOf n) ∧ t.cache = s.cache ∧ t.targets = s.targets ∧ t.host = rest

/-- R21, R35, R50, R52, R75, R232, R286: what each host write of a configuration register, of a latch byte, of payload bytes
and of a target word writes, and that it leaves everything else as it was: the other registers and latches of the unit, the
memories, the cache and the other units. The writes go to an idle unit, but a target word may be written at any time (R285).
`LOAD BLK_IN` writes the bytes of its list that have an entry (log 32); `LOAD PAYLOAD` starts at payload address 0 and sets
`PAYLOAD_LEN` (log 14); a payload byte may be written at any address (log
31) and a target word at any index (log 28); the binding is an access of the model's (log 29). -/
def Obligations.HostWritesOneThing : Prop :=
  (∀ (s : State) (v : Word64) (rest : List HostEvent), s.host = .setFmt v :: rest → s.unit.cmd = none →
    step s = .next { s with host := rest, unit := { s.unit with fmt := some v } }) ∧
  (∀ (s : State) (r : ConfigReg) (v : Word32) (rest : List HostEvent), s.host = .set r v :: rest → s.unit.cmd = none →
    ∃ u, step s = .next { s with host := rest, unit := u } ∧
      (∀ q, u.config q = if q = r then some v else s.unit.config q) ∧ u.withRegistersOf s.unit = s.unit) ∧
  (∀ (s : State) (i : Fin 32) (v : Byte) (rest : List HostEvent), s.host = .writeBlkIn i v :: rest → s.unit.cmd = none →
    ∃ l, step s = .next { s with host := rest, unit := { s.unit with blkIn := l } } ∧
      ∀ j, l.get j = if j = i then some v else s.unit.blkIn.get j) ∧
  (∀ (s : State) (bytes : List Byte) (rest : List HostEvent), s.host = .loadBlkIn bytes :: rest → s.unit.cmd = none →
    ∃ l, step s = .next { s with host := rest, unit := { s.unit with blkIn := l } } ∧
      ∀ j : Fin 32, l.get j = if j.val < bytes.length then bytes[j.val]? else s.unit.blkIn.get j) ∧
  (∀ (s : State) (a : Word32) (v : Byte) (rest : List HostEvent), s.host = .writePayload a v :: rest → s.unit.cmd = none →
    ∃ m, step s = .next { s with host := rest, unit := { s.unit with payload := m } } ∧
      ∀ b, Memory.read m b = if b = a.toNat then some v else Memory.read s.unit.payload b) ∧
  (∀ (s : State) (bytes : List Byte) (rest : List HostEvent), s.host = .loadPayload bytes :: rest → s.unit.cmd = none →
    (bytes.length < 2 ^ 32 → ∃ m len,
      step s = .next { s with host := rest, unit := { s.unit with payload := m, payloadLen := some len } } ∧
      len.toNat = bytes.length ∧
      ∀ b, Memory.read m b = if b < bytes.length then bytes[b]? else Memory.read s.unit.payload b) ∧
    (2 ^ 32 ≤ bytes.length → step s = .refused .payloadTooLong)) ∧
  (∀ (s : State) (i : Nat) (v : Word32) (rest : List HostEvent), s.host = .writeTarget i v :: rest →
    ∃ ts, step s = .next { s with host := rest, targets := ts } ∧
      (∀ a, Memory.read (targetOf ts s.unit.binding) a = if a = i then some v else Memory.read s.target a) ∧
      ∀ c, c ≠ s.unit.binding → targetOf ts c = targetOf s.targets c) ∧
  ∀ (s : State) (b : Nat) (rest : List HostEvent), s.host = .bindTarget b :: rest → s.unit.cmd = none →
    step s = .next { s with host := rest, unit := { s.unit with binding := b } }

/-- R37 to R40, R232, R266: a host read of a register, of the target or of the cache observation registers has no effect;
only a `BLK_OUT` entry with no value cannot be read (I6). That a read is a step is the model's choice (log 12, log 24). -/
def Obligations.HostReadsHaveNoEffect : Prop :=
  ∀ (s : State) (q : HostReadable) (rest : List HostEvent), s.host = .read q :: rest →
    step s = .next { s with host := rest } ∨
    ∃ i, q = .blkOut i ∧ s.unit.blkOut.get i = none ∧ step s = .refused .blkOutNoValue

end
end

