-- ==== Sys2Proof/Laws/Memory.lean ====
section
/-! SUPPORT. The laws of a memory: a read after a write, and the canonical form that every write keeps. -/

namespace Sys2Proof.Machine

variable {α : Type}

@[simp] theorem Memory.read_nil (a : Nat) : Memory.read ([] : List (Nat × α)) a = none := rfl

/-- What a cell holds after a write. -/
theorem Memory.read_write (m : List (Nat × α)) (a b : Nat) (v : α) :
    Memory.read (Memory.write m a v) b = if b = a then some v else Memory.read m b := by
  induction m with
  | nil => simp [Memory.write, Memory.read]
  | cons c rest ih =>
    obtain ⟨c, w⟩ := c
    unfold Memory.write
    split
    · simp [Memory.read]
    · split
      · next h => subst h; by_cases hb : b = a <;> simp [Memory.read, hb]
      · next hac =>
        by_cases hb : b = c
        · subst hb; simp [Memory.read, Ne.symm hac]
        · simp [Memory.read, hb, ih]

@[simp] theorem Memory.read_write_same (m : List (Nat × α)) (a : Nat) (v : α) :
    Memory.read (Memory.write m a v) a = some v := by simp [Memory.read_write]

theorem Memory.read_write_other (m : List (Nat × α)) {a b : Nat} (v : α) (h : b ≠ a) :
    Memory.read (Memory.write m a v) b = Memory.read m b := by simp [Memory.read_write, h]

/-- The canonical form is monotone in its lower bound. -/
theorem Memory.rising_mono (m : List (Nat × α)) {k l : Nat} (h : k ≤ l) (hm : Memory.rising l m = true) :
    Memory.rising k m = true := by
  cases m with
  | nil => rfl
  | cons c rest => simp_all [Memory.rising]; omega

/-- A write at or above the lower bound keeps the canonical form. -/
theorem Memory.rising_write (m : List (Nat × α)) {k a : Nat} (v : α) (h : k ≤ a) (hm : Memory.rising k m = true) :
    Memory.rising k (Memory.write m a v) = true := by
  induction m generalizing k with
  | nil => simp [Memory.write, Memory.rising, h]
  | cons c rest ih =>
    obtain ⟨c, w⟩ := c
    simp only [Memory.rising, Bool.and_eq_true, decide_eq_true_eq] at hm
    unfold Memory.write
    split
    · next hac => simp [Memory.rising, h, hm.2]; omega
    · split
      · next hc => subst hc; simp [Memory.rising, hm]
      · simp only [Memory.rising, Bool.and_eq_true, decide_eq_true_eq]
        exact ⟨hm.1, ih (by omega) hm.2⟩

/-- Every write keeps the canonical form. -/
theorem Memory.wf_write (m : List (Nat × α)) (a : Nat) (v : α) (hm : Memory.wf m = true) :
    Memory.wf (Memory.write m a v) = true := Memory.rising_write m v (Nat.zero_le a) hm

/-- Writes of consecutive cells keep the canonical form. -/
theorem Memory.wf_writeFrom (vs : List α) (m : List (Nat × α)) (a : Nat) (hm : Memory.wf m = true) :
    Memory.wf (Memory.writeFrom m a vs) = true := by
  induction vs generalizing m a with
  | nil => exact hm
  | cons v rest ih => exact ih _ _ (Memory.wf_write m a v hm)

/-- What a cell holds after writes of consecutive cells. -/
theorem Memory.read_writeFrom (vs : List α) (m : List (Nat × α)) (a b : Nat) :
    Memory.read (Memory.writeFrom m a vs) b =
      if a ≤ b ∧ b < a + vs.length then vs[b - a]? else Memory.read m b := by
  induction vs generalizing m a with
  | nil => simp [Memory.writeFrom]
  | cons v rest ih =>
    simp only [Memory.writeFrom, ih, Memory.read_write, List.length_cons]
    rcases Nat.lt_trichotomy b a with h | h | h
    · rw [if_neg (by omega), if_neg (by omega), if_neg (by omega)]
    · subst h; simp
    · by_cases hb : b < a + 1 + rest.length
      · rw [if_pos (by omega), if_pos (by omega)]
        obtain ⟨k, hk⟩ : ∃ k, b - a = k + 1 := ⟨b - a - 1, by omega⟩
        rw [hk, List.getElem?_cons_succ, show b - (a + 1) = k by omega]
      · rw [if_neg (by omega), if_neg (by omega), if_neg (by omega)]

/-- The addresses a write leaves listed. -/
theorem Memory.mem_write (m : List (Nat × α)) (a : Nat) (v : α) (c : Nat × α) (h : c ∈ Memory.write m a v) :
    c = (a, v) ∨ c ∈ m := by
  induction m with
  | nil => simpa [Memory.write] using h
  | cons d rest ih =>
    obtain ⟨d, w⟩ := d
    unfold Memory.write at h
    split at h
    · simpa using h
    · split at h
      · simp at h; tauto
      · simp at h
        rcases h with h | h
        · simp [h]
        · rcases ih h with h | h <;> simp [h]

/-- No address below the lower bound is listed. -/
theorem Memory.read_below (m : List (Nat × α)) {k a : Nat} (hm : Memory.rising k m = true) (h : a < k) :
    Memory.read m a = none := by
  induction m generalizing k with
  | nil => rfl
  | cons c rest ih =>
    obtain ⟨c, w⟩ := c
    simp only [Memory.rising, Bool.and_eq_true, decide_eq_true_eq] at hm
    rw [Memory.read, if_neg (by omega)]
    exact ih hm.2 (by omega)

/-- Memories in canonical form that read alike are equal. -/
theorem Memory.ext_read {k : Nat} (m n : List (Nat × α)) (hm : Memory.rising k m = true) (hn : Memory.rising k n = true)
    (h : ∀ a, Memory.read m a = Memory.read n a) : m = n := by
  induction m generalizing n k with
  | nil =>
    cases n with
    | nil => rfl
    | cons d rest => have := h d.1; simp [Memory.read] at this
  | cons c rest ih =>
    obtain ⟨c, w⟩ := c
    cases n with
    | nil => have := h c; simp [Memory.read] at this
    | cons d rest' =>
      obtain ⟨d, w'⟩ := d
      simp only [Memory.rising, Bool.and_eq_true, decide_eq_true_eq] at hm hn
      have hcd : c = d := by
        rcases Nat.lt_trichotomy c d with hlt | heq | hgt
        · have := h c
          rw [Memory.read, if_pos rfl, Memory.read, if_neg (by omega), Memory.read_below rest' hn.2 (by omega)] at this
          cases this
        · exact heq
        · have := h d
          rw [Memory.read, if_neg (by omega), Memory.read_below rest hm.2 (by omega), Memory.read, if_pos rfl] at this
          cases this
      subst hcd
      have hw : w = w' := by simpa [Memory.read] using h c
      subst hw
      congr 1
      refine ih rest' hm.2 hn.2 fun a => ?_
      by_cases ha : a = c
      · subst ha; rw [Memory.read_below rest hm.2 (by omega), Memory.read_below rest' hn.2 (by omega)]
      · simpa [Memory.read, ha] using h a

/-- A second write of one cell takes the place of the first. -/
theorem Memory.write_write (m : List (Nat × α)) (a : Nat) (v w : α) :
    Memory.write (Memory.write m a v) a w = Memory.write m a w := by
  induction m with
  | nil => simp [Memory.write]
  | cons c rest ih =>
    obtain ⟨c, x⟩ := c
    by_cases h : a < c
    · simp [Memory.write, h]
    · by_cases h' : a = c
      · subst h'; simp [Memory.write]
      · simp [Memory.write, h, h', ih]

theorem Memory.write_ne_nil (m : List (Nat × α)) (a : Nat) (v : α) : Memory.write m a v ≠ [] := by
  cases m with
  | nil => simp [Memory.write]
  | cons c rest => obtain ⟨c, x⟩ := c; unfold Memory.write; split_ifs <;> simp

/-- A listed cell is one of the memory's. -/
theorem Memory.mem_of_read {m : List (Nat × α)} {a : Nat} {v : α} (h : Memory.read m a = some v) : (a, v) ∈ m := by
  induction m with
  | nil => cases h
  | cons c rest ih =>
    obtain ⟨c, x⟩ := c
    by_cases hc : a = c
    · subst hc; simp [Memory.read] at h; simp [h]
    · rw [Memory.read, if_neg hc] at h; exact List.mem_cons_of_mem _ (ih h)

/-! ### The target memories -/

@[simp] theorem targetOf_nil (b : Nat) : targetOf [] b = [] := rfl

/-- What the target memories hold after one word write (R52, R286). -/
theorem targetOf_writeTargetWord (ts : List (Nat × List (Nat × Word32))) (b c i : Nat) (v : Word32) :
    targetOf (writeTargetWord ts b i v) c = if c = b then Memory.write (targetOf ts b) i v else targetOf ts c := by
  unfold writeTargetWord targetOf
  rw [Memory.read_write]
  split <;> rfl

theorem targetsWf_iff {ts : List (Nat × List (Nat × Word32))} :
    targetsWf ts = true ↔ Memory.wf ts = true ∧ ∀ m ∈ ts, Memory.wf m.2 = true ∧ m.2 ≠ [] := by
  simp [targetsWf]

/-- A target memory is in canonical form where all of them are. -/
theorem wf_targetOf {ts : List (Nat × List (Nat × Word32))} (h : targetsWf ts = true) (b : Nat) :
    Memory.wf (targetOf ts b) = true := by
  rcases hr : Memory.read ts b with _ | m
  · simp [targetOf, hr, Memory.wf, Memory.rising]
  · simp only [targetOf, hr, Option.getD_some]
    exact ((targetsWf_iff.mp h).2 _ (Memory.mem_of_read hr)).1

/-- A word write keeps the canonical form of the target memories. -/
theorem targetsWf_writeTargetWord {ts : List (Nat × List (Nat × Word32))} (h : targetsWf ts = true) (b i : Nat)
    (v : Word32) : targetsWf (writeTargetWord ts b i v) = true := by
  refine targetsWf_iff.mpr ⟨Memory.wf_write _ _ _ (targetsWf_iff.mp h).1, fun m hm => ?_⟩
  rcases Memory.mem_write _ _ _ _ hm with rfl | hm
  · exact ⟨Memory.wf_write _ _ _ (wf_targetOf h b), Memory.write_ne_nil _ _ _⟩
  · exact (targetsWf_iff.mp h).2 m hm

/-- Any word writes keep the canonical form of the target memories. -/
theorem targetsWf_writeTargets (ws : List (Nat × Word32)) {ts : List (Nat × List (Nat × Word32))}
    (h : targetsWf ts = true) (b : Nat) : targetsWf (writeTargets ts b ws) = true := by
  induction ws generalizing ts with
  | nil => exact h
  | cons w rest ih => exact ih (targetsWf_writeTargetWord h b w.1 w.2)

/-- Target memories in canonical form that hold the same are equal. -/
theorem targets_ext {ts us : List (Nat × List (Nat × Word32))} (ht : targetsWf ts = true) (hu : targetsWf us = true)
    (h : ∀ b, targetOf ts b = targetOf us b) : ts = us := by
  refine Memory.ext_read ts us (targetsWf_iff.mp ht).1 (targetsWf_iff.mp hu).1 fun b => ?_
  have hb := h b
  simp only [targetOf] at hb
  have key : ∀ {vs : List (Nat × List (Nat × Word32))}, targetsWf vs = true → Memory.read vs b ≠ some [] :=
    fun hv hr => ((targetsWf_iff.mp hv).2 _ (Memory.mem_of_read hr)).2 rfl
  rcases h1 : Memory.read ts b with _ | m <;> rcases h2 : Memory.read us b with _ | n <;> simp_all

/-- The memories of the machine after reset are in canonical form. -/
theorem State.reset_memories_wf :
    Memory.wf State.reset.unit.payload = true ∧ targetsWf State.reset.targets = true := ⟨rfl, rfl⟩

end Sys2Proof.Machine
end

