-- ==== Sys2Proof/Laws/State.lean ====
section
/-! SUPPORT. One lemma per field for each named update of a unit and of the machine, true by `rfl`, so that no later proof
unfolds a record update. -/

namespace Sys2Proof.Machine

/-! ### `DecodeUnit.withCursor` -/

@[simp] theorem DecodeUnit.withCursor_fmt (u : DecodeUnit) (c : Cursor) : (u.withCursor c).fmt = u.fmt := rfl
@[simp] theorem DecodeUnit.withCursor_flags (u : DecodeUnit) (c : Cursor) : (u.withCursor c).flags = u.flags := rfl
@[simp] theorem DecodeUnit.withCursor_cspace (u : DecodeUnit) (c : Cursor) : (u.withCursor c).cspace = u.cspace := rfl
@[simp] theorem DecodeUnit.withCursor_chtype (u : DecodeUnit) (c : Cursor) : (u.withCursor c).chtype = u.chtype := rfl
@[simp] theorem DecodeUnit.withCursor_texW (u : DecodeUnit) (c : Cursor) : (u.withCursor c).texW = u.texW := rfl
@[simp] theorem DecodeUnit.withCursor_texH (u : DecodeUnit) (c : Cursor) : (u.withCursor c).texH = u.texH := rfl
@[simp] theorem DecodeUnit.withCursor_texDepth (u : DecodeUnit) (c : Cursor) : (u.withCursor c).texDepth = u.texDepth := rfl
@[simp] theorem DecodeUnit.withCursor_surfaces (u : DecodeUnit) (c : Cursor) : (u.withCursor c).surfaces = u.surfaces := rfl
@[simp] theorem DecodeUnit.withCursor_faces (u : DecodeUnit) (c : Cursor) : (u.withCursor c).faces = u.faces := rfl
@[simp] theorem DecodeUnit.withCursor_mipmaps (u : DecodeUnit) (c : Cursor) : (u.withCursor c).mipmaps = u.mipmaps := rfl
@[simp] theorem DecodeUnit.withCursor_payloadLen (u : DecodeUnit) (c : Cursor) : (u.withCursor c).payloadLen = u.payloadLen := rfl
@[simp] theorem DecodeUnit.withCursor_infoId (u : DecodeUnit) (c : Cursor) : (u.withCursor c).infoId = u.infoId := rfl
@[simp] theorem DecodeUnit.withCursor_regX (u : DecodeUnit) (c : Cursor) : (u.withCursor c).regX = u.regX := rfl
@[simp] theorem DecodeUnit.withCursor_regY (u : DecodeUnit) (c : Cursor) : (u.withCursor c).regY = u.regY := rfl
@[simp] theorem DecodeUnit.withCursor_regW (u : DecodeUnit) (c : Cursor) : (u.withCursor c).regW = u.regW := rfl
@[simp] theorem DecodeUnit.withCursor_regH (u : DecodeUnit) (c : Cursor) : (u.withCursor c).regH = u.regH := rfl
@[simp] theorem DecodeUnit.withCursor_tgtW (u : DecodeUnit) (c : Cursor) : (u.withCursor c).tgtW = u.tgtW := rfl
@[simp] theorem DecodeUnit.withCursor_tgtH (u : DecodeUnit) (c : Cursor) : (u.withCursor c).tgtH = u.tgtH := rfl
@[simp] theorem DecodeUnit.withCursor_ctrl (u : DecodeUnit) (c : Cursor) : (u.withCursor c).ctrl = u.ctrl := rfl
@[simp] theorem DecodeUnit.withCursor_blkIn (u : DecodeUnit) (c : Cursor) : (u.withCursor c).blkIn = u.blkIn := rfl
@[simp] theorem DecodeUnit.withCursor_cmd (u : DecodeUnit) (c : Cursor) : (u.withCursor c).cmd = u.cmd := rfl
@[simp] theorem DecodeUnit.withCursor_result (u : DecodeUnit) (c : Cursor) : (u.withCursor c).result = u.result := rfl
@[simp] theorem DecodeUnit.withCursor_status (u : DecodeUnit) (c : Cursor) : (u.withCursor c).status = u.status := rfl
@[simp] theorem DecodeUnit.withCursor_faultInfo (u : DecodeUnit) (c : Cursor) : (u.withCursor c).faultInfo = u.faultInfo := rfl
@[simp] theorem DecodeUnit.withCursor_faultSeen (u : DecodeUnit) (c : Cursor) : (u.withCursor c).faultSeen = u.faultSeen := rfl
@[simp] theorem DecodeUnit.withCursor_blkOut (u : DecodeUnit) (c : Cursor) : (u.withCursor c).blkOut = u.blkOut := rfl
@[simp] theorem DecodeUnit.withCursor_cursor (u : DecodeUnit) (c : Cursor) : (u.withCursor c).cursor = some c := rfl
@[simp] theorem DecodeUnit.withCursor_payload (u : DecodeUnit) (c : Cursor) : (u.withCursor c).payload = u.payload := rfl
@[simp] theorem DecodeUnit.withCursor_binding (u : DecodeUnit) (c : Cursor) : (u.withCursor c).binding = u.binding := rfl
@[simp] theorem DecodeUnit.withCursor_writes (u : DecodeUnit) (c : Cursor) : (u.withCursor c).writes = u.writes := rfl
@[simp] theorem DecodeUnit.withCursor_insertion (u : DecodeUnit) (c : Cursor) : (u.withCursor c).insertion = u.insertion := rfl
@[simp] theorem DecodeUnit.withCursor_completion (u : DecodeUnit) (c : Cursor) : (u.withCursor c).completion = u.completion := rfl

/-! ### `DecodeUnit.withWrites` -/

@[simp] theorem DecodeUnit.withWrites_fmt (u : DecodeUnit) (ws : List (Nat × Word32)) : (u.withWrites ws).fmt = u.fmt := rfl
@[simp] theorem DecodeUnit.withWrites_flags (u : DecodeUnit) (ws : List (Nat × Word32)) : (u.withWrites ws).flags = u.flags := rfl
@[simp] theorem DecodeUnit.withWrites_cspace (u : DecodeUnit) (ws : List (Nat × Word32)) : (u.withWrites ws).cspace = u.cspace := rfl
@[simp] theorem DecodeUnit.withWrites_chtype (u : DecodeUnit) (ws : List (Nat × Word32)) : (u.withWrites ws).chtype = u.chtype := rfl
@[simp] theorem DecodeUnit.withWrites_texW (u : DecodeUnit) (ws : List (Nat × Word32)) : (u.withWrites ws).texW = u.texW := rfl
@[simp] theorem DecodeUnit.withWrites_texH (u : DecodeUnit) (ws : List (Nat × Word32)) : (u.withWrites ws).texH = u.texH := rfl
@[simp] theorem DecodeUnit.withWrites_texDepth (u : DecodeUnit) (ws : List (Nat × Word32)) : (u.withWrites ws).texDepth = u.texDepth := rfl
@[simp] theorem DecodeUnit.withWrites_surfaces (u : DecodeUnit) (ws : List (Nat × Word32)) : (u.withWrites ws).surfaces = u.surfaces := rfl
@[simp] theorem DecodeUnit.withWrites_faces (u : DecodeUnit) (ws : List (Nat × Word32)) : (u.withWrites ws).faces = u.faces := rfl
@[simp] theorem DecodeUnit.withWrites_mipmaps (u : DecodeUnit) (ws : List (Nat × Word32)) : (u.withWrites ws).mipmaps = u.mipmaps := rfl
@[simp] theorem DecodeUnit.withWrites_payloadLen (u : DecodeUnit) (ws : List (Nat × Word32)) : (u.withWrites ws).payloadLen = u.payloadLen := rfl
@[simp] theorem DecodeUnit.withWrites_infoId (u : DecodeUnit) (ws : List (Nat × Word32)) : (u.withWrites ws).infoId = u.infoId := rfl
@[simp] theorem DecodeUnit.withWrites_regX (u : DecodeUnit) (ws : List (Nat × Word32)) : (u.withWrites ws).regX = u.regX := rfl
@[simp] theorem DecodeUnit.withWrites_regY (u : DecodeUnit) (ws : List (Nat × Word32)) : (u.withWrites ws).regY = u.regY := rfl
@[simp] theorem DecodeUnit.withWrites_regW (u : DecodeUnit) (ws : List (Nat × Word32)) : (u.withWrites ws).regW = u.regW := rfl
@[simp] theorem DecodeUnit.withWrites_regH (u : DecodeUnit) (ws : List (Nat × Word32)) : (u.withWrites ws).regH = u.regH := rfl
@[simp] theorem DecodeUnit.withWrites_tgtW (u : DecodeUnit) (ws : List (Nat × Word32)) : (u.withWrites ws).tgtW = u.tgtW := rfl
@[simp] theorem DecodeUnit.withWrites_tgtH (u : DecodeUnit) (ws : List (Nat × Word32)) : (u.withWrites ws).tgtH = u.tgtH := rfl
@[simp] theorem DecodeUnit.withWrites_ctrl (u : DecodeUnit) (ws : List (Nat × Word32)) : (u.withWrites ws).ctrl = u.ctrl := rfl
@[simp] theorem DecodeUnit.withWrites_blkIn (u : DecodeUnit) (ws : List (Nat × Word32)) : (u.withWrites ws).blkIn = u.blkIn := rfl
@[simp] theorem DecodeUnit.withWrites_cmd (u : DecodeUnit) (ws : List (Nat × Word32)) : (u.withWrites ws).cmd = u.cmd := rfl
@[simp] theorem DecodeUnit.withWrites_result (u : DecodeUnit) (ws : List (Nat × Word32)) : (u.withWrites ws).result = u.result := rfl
@[simp] theorem DecodeUnit.withWrites_status (u : DecodeUnit) (ws : List (Nat × Word32)) : (u.withWrites ws).status = u.status := rfl
@[simp] theorem DecodeUnit.withWrites_faultInfo (u : DecodeUnit) (ws : List (Nat × Word32)) : (u.withWrites ws).faultInfo = u.faultInfo := rfl
@[simp] theorem DecodeUnit.withWrites_faultSeen (u : DecodeUnit) (ws : List (Nat × Word32)) : (u.withWrites ws).faultSeen = u.faultSeen := rfl
@[simp] theorem DecodeUnit.withWrites_blkOut (u : DecodeUnit) (ws : List (Nat × Word32)) : (u.withWrites ws).blkOut = u.blkOut := rfl
@[simp] theorem DecodeUnit.withWrites_cursor (u : DecodeUnit) (ws : List (Nat × Word32)) : (u.withWrites ws).cursor = u.cursor := rfl
@[simp] theorem DecodeUnit.withWrites_payload (u : DecodeUnit) (ws : List (Nat × Word32)) : (u.withWrites ws).payload = u.payload := rfl
@[simp] theorem DecodeUnit.withWrites_binding (u : DecodeUnit) (ws : List (Nat × Word32)) : (u.withWrites ws).binding = u.binding := rfl
@[simp] theorem DecodeUnit.withWrites_writes (u : DecodeUnit) (ws : List (Nat × Word32)) : (u.withWrites ws).writes = ws := rfl
@[simp] theorem DecodeUnit.withWrites_insertion (u : DecodeUnit) (ws : List (Nat × Word32)) : (u.withWrites ws).insertion = u.insertion := rfl
@[simp] theorem DecodeUnit.withWrites_completion (u : DecodeUnit) (ws : List (Nat × Word32)) : (u.withWrites ws).completion = u.completion := rfl

/-! ### `DecodeUnit.withInsertion` -/

@[simp] theorem DecodeUnit.withInsertion_fmt (u : DecodeUnit) (e : Option (Word32 × Bitmap)) : (u.withInsertion e).fmt = u.fmt := rfl
@[simp] theorem DecodeUnit.withInsertion_flags (u : DecodeUnit) (e : Option (Word32 × Bitmap)) : (u.withInsertion e).flags = u.flags := rfl
@[simp] theorem DecodeUnit.withInsertion_cspace (u : DecodeUnit) (e : Option (Word32 × Bitmap)) : (u.withInsertion e).cspace = u.cspace := rfl
@[simp] theorem DecodeUnit.withInsertion_chtype (u : DecodeUnit) (e : Option (Word32 × Bitmap)) : (u.withInsertion e).chtype = u.chtype := rfl
@[simp] theorem DecodeUnit.withInsertion_texW (u : DecodeUnit) (e : Option (Word32 × Bitmap)) : (u.withInsertion e).texW = u.texW := rfl
@[simp] theorem DecodeUnit.withInsertion_texH (u : DecodeUnit) (e : Option (Word32 × Bitmap)) : (u.withInsertion e).texH = u.texH := rfl
@[simp] theorem DecodeUnit.withInsertion_texDepth (u : DecodeUnit) (e : Option (Word32 × Bitmap)) : (u.withInsertion e).texDepth = u.texDepth := rfl
@[simp] theorem DecodeUnit.withInsertion_surfaces (u : DecodeUnit) (e : Option (Word32 × Bitmap)) : (u.withInsertion e).surfaces = u.surfaces := rfl
@[simp] theorem DecodeUnit.withInsertion_faces (u : DecodeUnit) (e : Option (Word32 × Bitmap)) : (u.withInsertion e).faces = u.faces := rfl
@[simp] theorem DecodeUnit.withInsertion_mipmaps (u : DecodeUnit) (e : Option (Word32 × Bitmap)) : (u.withInsertion e).mipmaps = u.mipmaps := rfl
@[simp] theorem DecodeUnit.withInsertion_payloadLen (u : DecodeUnit) (e : Option (Word32 × Bitmap)) : (u.withInsertion e).payloadLen = u.payloadLen := rfl
@[simp] theorem DecodeUnit.withInsertion_infoId (u : DecodeUnit) (e : Option (Word32 × Bitmap)) : (u.withInsertion e).infoId = u.infoId := rfl
@[simp] theorem DecodeUnit.withInsertion_regX (u : DecodeUnit) (e : Option (Word32 × Bitmap)) : (u.withInsertion e).regX = u.regX := rfl
@[simp] theorem DecodeUnit.withInsertion_regY (u : DecodeUnit) (e : Option (Word32 × Bitmap)) : (u.withInsertion e).regY = u.regY := rfl
@[simp] theorem DecodeUnit.withInsertion_regW (u : DecodeUnit) (e : Option (Word32 × Bitmap)) : (u.withInsertion e).regW = u.regW := rfl
@[simp] theorem DecodeUnit.withInsertion_regH (u : DecodeUnit) (e : Option (Word32 × Bitmap)) : (u.withInsertion e).regH = u.regH := rfl
@[simp] theorem DecodeUnit.withInsertion_tgtW (u : DecodeUnit) (e : Option (Word32 × Bitmap)) : (u.withInsertion e).tgtW = u.tgtW := rfl
@[simp] theorem DecodeUnit.withInsertion_tgtH (u : DecodeUnit) (e : Option (Word32 × Bitmap)) : (u.withInsertion e).tgtH = u.tgtH := rfl
@[simp] theorem DecodeUnit.withInsertion_ctrl (u : DecodeUnit) (e : Option (Word32 × Bitmap)) : (u.withInsertion e).ctrl = u.ctrl := rfl
@[simp] theorem DecodeUnit.withInsertion_blkIn (u : DecodeUnit) (e : Option (Word32 × Bitmap)) : (u.withInsertion e).blkIn = u.blkIn := rfl
@[simp] theorem DecodeUnit.withInsertion_cmd (u : DecodeUnit) (e : Option (Word32 × Bitmap)) : (u.withInsertion e).cmd = u.cmd := rfl
@[simp] theorem DecodeUnit.withInsertion_result (u : DecodeUnit) (e : Option (Word32 × Bitmap)) : (u.withInsertion e).result = u.result := rfl
@[simp] theorem DecodeUnit.withInsertion_status (u : DecodeUnit) (e : Option (Word32 × Bitmap)) : (u.withInsertion e).status = u.status := rfl
@[simp] theorem DecodeUnit.withInsertion_faultInfo (u : DecodeUnit) (e : Option (Word32 × Bitmap)) : (u.withInsertion e).faultInfo = u.faultInfo := rfl
@[simp] theorem DecodeUnit.withInsertion_faultSeen (u : DecodeUnit) (e : Option (Word32 × Bitmap)) : (u.withInsertion e).faultSeen = u.faultSeen := rfl
@[simp] theorem DecodeUnit.withInsertion_blkOut (u : DecodeUnit) (e : Option (Word32 × Bitmap)) : (u.withInsertion e).blkOut = u.blkOut := rfl
@[simp] theorem DecodeUnit.withInsertion_cursor (u : DecodeUnit) (e : Option (Word32 × Bitmap)) : (u.withInsertion e).cursor = u.cursor := rfl
@[simp] theorem DecodeUnit.withInsertion_payload (u : DecodeUnit) (e : Option (Word32 × Bitmap)) : (u.withInsertion e).payload = u.payload := rfl
@[simp] theorem DecodeUnit.withInsertion_binding (u : DecodeUnit) (e : Option (Word32 × Bitmap)) : (u.withInsertion e).binding = u.binding := rfl
@[simp] theorem DecodeUnit.withInsertion_writes (u : DecodeUnit) (e : Option (Word32 × Bitmap)) : (u.withInsertion e).writes = u.writes := rfl
@[simp] theorem DecodeUnit.withInsertion_insertion (u : DecodeUnit) (e : Option (Word32 × Bitmap)) : (u.withInsertion e).insertion = e := rfl
@[simp] theorem DecodeUnit.withInsertion_completion (u : DecodeUnit) (e : Option (Word32 × Bitmap)) : (u.withInsertion e).completion = u.completion := rfl

/-! ### `DecodeUnit.pend` -/

@[simp] theorem DecodeUnit.pend_fmt (u : DecodeUnit) (e : Option (Word32 × Bitmap)) (k : Completion) : (u.pend e k).fmt = u.fmt := rfl
@[simp] theorem DecodeUnit.pend_flags (u : DecodeUnit) (e : Option (Word32 × Bitmap)) (k : Completion) : (u.pend e k).flags = u.flags := rfl
@[simp] theorem DecodeUnit.pend_cspace (u : DecodeUnit) (e : Option (Word32 × Bitmap)) (k : Completion) : (u.pend e k).cspace = u.cspace := rfl
@[simp] theorem DecodeUnit.pend_chtype (u : DecodeUnit) (e : Option (Word32 × Bitmap)) (k : Completion) : (u.pend e k).chtype = u.chtype := rfl
@[simp] theorem DecodeUnit.pend_texW (u : DecodeUnit) (e : Option (Word32 × Bitmap)) (k : Completion) : (u.pend e k).texW = u.texW := rfl
@[simp] theorem DecodeUnit.pend_texH (u : DecodeUnit) (e : Option (Word32 × Bitmap)) (k : Completion) : (u.pend e k).texH = u.texH := rfl
@[simp] theorem DecodeUnit.pend_texDepth (u : DecodeUnit) (e : Option (Word32 × Bitmap)) (k : Completion) : (u.pend e k).texDepth = u.texDepth := rfl
@[simp] theorem DecodeUnit.pend_surfaces (u : DecodeUnit) (e : Option (Word32 × Bitmap)) (k : Completion) : (u.pend e k).surfaces = u.surfaces := rfl
@[simp] theorem DecodeUnit.pend_faces (u : DecodeUnit) (e : Option (Word32 × Bitmap)) (k : Completion) : (u.pend e k).faces = u.faces := rfl
@[simp] theorem DecodeUnit.pend_mipmaps (u : DecodeUnit) (e : Option (Word32 × Bitmap)) (k : Completion) : (u.pend e k).mipmaps = u.mipmaps := rfl
@[simp] theorem DecodeUnit.pend_payloadLen (u : DecodeUnit) (e : Option (Word32 × Bitmap)) (k : Completion) : (u.pend e k).payloadLen = u.payloadLen := rfl
@[simp] theorem DecodeUnit.pend_infoId (u : DecodeUnit) (e : Option (Word32 × Bitmap)) (k : Completion) : (u.pend e k).infoId = u.infoId := rfl
@[simp] theorem DecodeUnit.pend_regX (u : DecodeUnit) (e : Option (Word32 × Bitmap)) (k : Completion) : (u.pend e k).regX = u.regX := rfl
@[simp] theorem DecodeUnit.pend_regY (u : DecodeUnit) (e : Option (Word32 × Bitmap)) (k : Completion) : (u.pend e k).regY = u.regY := rfl
@[simp] theorem DecodeUnit.pend_regW (u : DecodeUnit) (e : Option (Word32 × Bitmap)) (k : Completion) : (u.pend e k).regW = u.regW := rfl
@[simp] theorem DecodeUnit.pend_regH (u : DecodeUnit) (e : Option (Word32 × Bitmap)) (k : Completion) : (u.pend e k).regH = u.regH := rfl
@[simp] theorem DecodeUnit.pend_tgtW (u : DecodeUnit) (e : Option (Word32 × Bitmap)) (k : Completion) : (u.pend e k).tgtW = u.tgtW := rfl
@[simp] theorem DecodeUnit.pend_tgtH (u : DecodeUnit) (e : Option (Word32 × Bitmap)) (k : Completion) : (u.pend e k).tgtH = u.tgtH := rfl
@[simp] theorem DecodeUnit.pend_ctrl (u : DecodeUnit) (e : Option (Word32 × Bitmap)) (k : Completion) : (u.pend e k).ctrl = u.ctrl := rfl
@[simp] theorem DecodeUnit.pend_blkIn (u : DecodeUnit) (e : Option (Word32 × Bitmap)) (k : Completion) : (u.pend e k).blkIn = u.blkIn := rfl
@[simp] theorem DecodeUnit.pend_cmd (u : DecodeUnit) (e : Option (Word32 × Bitmap)) (k : Completion) : (u.pend e k).cmd = u.cmd := rfl
@[simp] theorem DecodeUnit.pend_result (u : DecodeUnit) (e : Option (Word32 × Bitmap)) (k : Completion) : (u.pend e k).result = u.result := rfl
@[simp] theorem DecodeUnit.pend_status (u : DecodeUnit) (e : Option (Word32 × Bitmap)) (k : Completion) : (u.pend e k).status = u.status := rfl
@[simp] theorem DecodeUnit.pend_faultInfo (u : DecodeUnit) (e : Option (Word32 × Bitmap)) (k : Completion) : (u.pend e k).faultInfo = u.faultInfo := rfl
@[simp] theorem DecodeUnit.pend_faultSeen (u : DecodeUnit) (e : Option (Word32 × Bitmap)) (k : Completion) : (u.pend e k).faultSeen = u.faultSeen := rfl
@[simp] theorem DecodeUnit.pend_blkOut (u : DecodeUnit) (e : Option (Word32 × Bitmap)) (k : Completion) : (u.pend e k).blkOut = u.blkOut := rfl
@[simp] theorem DecodeUnit.pend_cursor (u : DecodeUnit) (e : Option (Word32 × Bitmap)) (k : Completion) : (u.pend e k).cursor = u.cursor := rfl
@[simp] theorem DecodeUnit.pend_payload (u : DecodeUnit) (e : Option (Word32 × Bitmap)) (k : Completion) : (u.pend e k).payload = u.payload := rfl
@[simp] theorem DecodeUnit.pend_binding (u : DecodeUnit) (e : Option (Word32 × Bitmap)) (k : Completion) : (u.pend e k).binding = u.binding := rfl
@[simp] theorem DecodeUnit.pend_writes (u : DecodeUnit) (e : Option (Word32 × Bitmap)) (k : Completion) : (u.pend e k).writes = u.writes := rfl
@[simp] theorem DecodeUnit.pend_insertion (u : DecodeUnit) (e : Option (Word32 × Bitmap)) (k : Completion) : (u.pend e k).insertion = e := rfl
@[simp] theorem DecodeUnit.pend_completion (u : DecodeUnit) (e : Option (Word32 × Bitmap)) (k : Completion) : (u.pend e k).completion = some k := rfl

/-! ### `DecodeUnit.withBlkOut` -/

@[simp] theorem DecodeUnit.withBlkOut_fmt (u : DecodeUnit) (o : Vector (Option Pixel) 32) : (u.withBlkOut o).fmt = u.fmt := rfl
@[simp] theorem DecodeUnit.withBlkOut_flags (u : DecodeUnit) (o : Vector (Option Pixel) 32) : (u.withBlkOut o).flags = u.flags := rfl
@[simp] theorem DecodeUnit.withBlkOut_cspace (u : DecodeUnit) (o : Vector (Option Pixel) 32) : (u.withBlkOut o).cspace = u.cspace := rfl
@[simp] theorem DecodeUnit.withBlkOut_chtype (u : DecodeUnit) (o : Vector (Option Pixel) 32) : (u.withBlkOut o).chtype = u.chtype := rfl
@[simp] theorem DecodeUnit.withBlkOut_texW (u : DecodeUnit) (o : Vector (Option Pixel) 32) : (u.withBlkOut o).texW = u.texW := rfl
@[simp] theorem DecodeUnit.withBlkOut_texH (u : DecodeUnit) (o : Vector (Option Pixel) 32) : (u.withBlkOut o).texH = u.texH := rfl
@[simp] theorem DecodeUnit.withBlkOut_texDepth (u : DecodeUnit) (o : Vector (Option Pixel) 32) : (u.withBlkOut o).texDepth = u.texDepth := rfl
@[simp] theorem DecodeUnit.withBlkOut_surfaces (u : DecodeUnit) (o : Vector (Option Pixel) 32) : (u.withBlkOut o).surfaces = u.surfaces := rfl
@[simp] theorem DecodeUnit.withBlkOut_faces (u : DecodeUnit) (o : Vector (Option Pixel) 32) : (u.withBlkOut o).faces = u.faces := rfl
@[simp] theorem DecodeUnit.withBlkOut_mipmaps (u : DecodeUnit) (o : Vector (Option Pixel) 32) : (u.withBlkOut o).mipmaps = u.mipmaps := rfl
@[simp] theorem DecodeUnit.withBlkOut_payloadLen (u : DecodeUnit) (o : Vector (Option Pixel) 32) : (u.withBlkOut o).payloadLen = u.payloadLen := rfl
@[simp] theorem DecodeUnit.withBlkOut_infoId (u : DecodeUnit) (o : Vector (Option Pixel) 32) : (u.withBlkOut o).infoId = u.infoId := rfl
@[simp] theorem DecodeUnit.withBlkOut_regX (u : DecodeUnit) (o : Vector (Option Pixel) 32) : (u.withBlkOut o).regX = u.regX := rfl
@[simp] theorem DecodeUnit.withBlkOut_regY (u : DecodeUnit) (o : Vector (Option Pixel) 32) : (u.withBlkOut o).regY = u.regY := rfl
@[simp] theorem DecodeUnit.withBlkOut_regW (u : DecodeUnit) (o : Vector (Option Pixel) 32) : (u.withBlkOut o).regW = u.regW := rfl
@[simp] theorem DecodeUnit.withBlkOut_regH (u : DecodeUnit) (o : Vector (Option Pixel) 32) : (u.withBlkOut o).regH = u.regH := rfl
@[simp] theorem DecodeUnit.withBlkOut_tgtW (u : DecodeUnit) (o : Vector (Option Pixel) 32) : (u.withBlkOut o).tgtW = u.tgtW := rfl
@[simp] theorem DecodeUnit.withBlkOut_tgtH (u : DecodeUnit) (o : Vector (Option Pixel) 32) : (u.withBlkOut o).tgtH = u.tgtH := rfl
@[simp] theorem DecodeUnit.withBlkOut_ctrl (u : DecodeUnit) (o : Vector (Option Pixel) 32) : (u.withBlkOut o).ctrl = u.ctrl := rfl
@[simp] theorem DecodeUnit.withBlkOut_blkIn (u : DecodeUnit) (o : Vector (Option Pixel) 32) : (u.withBlkOut o).blkIn = u.blkIn := rfl
@[simp] theorem DecodeUnit.withBlkOut_cmd (u : DecodeUnit) (o : Vector (Option Pixel) 32) : (u.withBlkOut o).cmd = u.cmd := rfl
@[simp] theorem DecodeUnit.withBlkOut_result (u : DecodeUnit) (o : Vector (Option Pixel) 32) : (u.withBlkOut o).result = u.result := rfl
@[simp] theorem DecodeUnit.withBlkOut_status (u : DecodeUnit) (o : Vector (Option Pixel) 32) : (u.withBlkOut o).status = u.status := rfl
@[simp] theorem DecodeUnit.withBlkOut_faultInfo (u : DecodeUnit) (o : Vector (Option Pixel) 32) : (u.withBlkOut o).faultInfo = u.faultInfo := rfl
@[simp] theorem DecodeUnit.withBlkOut_faultSeen (u : DecodeUnit) (o : Vector (Option Pixel) 32) : (u.withBlkOut o).faultSeen = u.faultSeen := rfl
@[simp] theorem DecodeUnit.withBlkOut_blkOut (u : DecodeUnit) (o : Vector (Option Pixel) 32) : (u.withBlkOut o).blkOut = o := rfl
@[simp] theorem DecodeUnit.withBlkOut_cursor (u : DecodeUnit) (o : Vector (Option Pixel) 32) : (u.withBlkOut o).cursor = u.cursor := rfl
@[simp] theorem DecodeUnit.withBlkOut_payload (u : DecodeUnit) (o : Vector (Option Pixel) 32) : (u.withBlkOut o).payload = u.payload := rfl
@[simp] theorem DecodeUnit.withBlkOut_binding (u : DecodeUnit) (o : Vector (Option Pixel) 32) : (u.withBlkOut o).binding = u.binding := rfl
@[simp] theorem DecodeUnit.withBlkOut_writes (u : DecodeUnit) (o : Vector (Option Pixel) 32) : (u.withBlkOut o).writes = u.writes := rfl
@[simp] theorem DecodeUnit.withBlkOut_insertion (u : DecodeUnit) (o : Vector (Option Pixel) 32) : (u.withBlkOut o).insertion = u.insertion := rfl
@[simp] theorem DecodeUnit.withBlkOut_completion (u : DecodeUnit) (o : Vector (Option Pixel) 32) : (u.withBlkOut o).completion = u.completion := rfl

/-! ### `DecodeUnit.withCmd` -/

@[simp] theorem DecodeUnit.withCmd_fmt (u : DecodeUnit) (w : Word32) : (u.withCmd w).fmt = u.fmt := rfl
@[simp] theorem DecodeUnit.withCmd_flags (u : DecodeUnit) (w : Word32) : (u.withCmd w).flags = u.flags := rfl
@[simp] theorem DecodeUnit.withCmd_cspace (u : DecodeUnit) (w : Word32) : (u.withCmd w).cspace = u.cspace := rfl
@[simp] theorem DecodeUnit.withCmd_chtype (u : DecodeUnit) (w : Word32) : (u.withCmd w).chtype = u.chtype := rfl
@[simp] theorem DecodeUnit.withCmd_texW (u : DecodeUnit) (w : Word32) : (u.withCmd w).texW = u.texW := rfl
@[simp] theorem DecodeUnit.withCmd_texH (u : DecodeUnit) (w : Word32) : (u.withCmd w).texH = u.texH := rfl
@[simp] theorem DecodeUnit.withCmd_texDepth (u : DecodeUnit) (w : Word32) : (u.withCmd w).texDepth = u.texDepth := rfl
@[simp] theorem DecodeUnit.withCmd_surfaces (u : DecodeUnit) (w : Word32) : (u.withCmd w).surfaces = u.surfaces := rfl
@[simp] theorem DecodeUnit.withCmd_faces (u : DecodeUnit) (w : Word32) : (u.withCmd w).faces = u.faces := rfl
@[simp] theorem DecodeUnit.withCmd_mipmaps (u : DecodeUnit) (w : Word32) : (u.withCmd w).mipmaps = u.mipmaps := rfl
@[simp] theorem DecodeUnit.withCmd_payloadLen (u : DecodeUnit) (w : Word32) : (u.withCmd w).payloadLen = u.payloadLen := rfl
@[simp] theorem DecodeUnit.withCmd_infoId (u : DecodeUnit) (w : Word32) : (u.withCmd w).infoId = u.infoId := rfl
@[simp] theorem DecodeUnit.withCmd_regX (u : DecodeUnit) (w : Word32) : (u.withCmd w).regX = u.regX := rfl
@[simp] theorem DecodeUnit.withCmd_regY (u : DecodeUnit) (w : Word32) : (u.withCmd w).regY = u.regY := rfl
@[simp] theorem DecodeUnit.withCmd_regW (u : DecodeUnit) (w : Word32) : (u.withCmd w).regW = u.regW := rfl
@[simp] theorem DecodeUnit.withCmd_regH (u : DecodeUnit) (w : Word32) : (u.withCmd w).regH = u.regH := rfl
@[simp] theorem DecodeUnit.withCmd_tgtW (u : DecodeUnit) (w : Word32) : (u.withCmd w).tgtW = u.tgtW := rfl
@[simp] theorem DecodeUnit.withCmd_tgtH (u : DecodeUnit) (w : Word32) : (u.withCmd w).tgtH = u.tgtH := rfl
@[simp] theorem DecodeUnit.withCmd_ctrl (u : DecodeUnit) (w : Word32) : (u.withCmd w).ctrl = u.ctrl := rfl
@[simp] theorem DecodeUnit.withCmd_blkIn (u : DecodeUnit) (w : Word32) : (u.withCmd w).blkIn = u.blkIn := rfl
@[simp] theorem DecodeUnit.withCmd_cmd (u : DecodeUnit) (w : Word32) : (u.withCmd w).cmd = some w := rfl
@[simp] theorem DecodeUnit.withCmd_result (u : DecodeUnit) (w : Word32) : (u.withCmd w).result = u.result := rfl
@[simp] theorem DecodeUnit.withCmd_status (u : DecodeUnit) (w : Word32) : (u.withCmd w).status = u.status := rfl
@[simp] theorem DecodeUnit.withCmd_faultInfo (u : DecodeUnit) (w : Word32) : (u.withCmd w).faultInfo = u.faultInfo := rfl
@[simp] theorem DecodeUnit.withCmd_faultSeen (u : DecodeUnit) (w : Word32) : (u.withCmd w).faultSeen = u.faultSeen := rfl
@[simp] theorem DecodeUnit.withCmd_blkOut (u : DecodeUnit) (w : Word32) : (u.withCmd w).blkOut = u.blkOut := rfl
@[simp] theorem DecodeUnit.withCmd_cursor (u : DecodeUnit) (w : Word32) : (u.withCmd w).cursor = u.cursor := rfl
@[simp] theorem DecodeUnit.withCmd_payload (u : DecodeUnit) (w : Word32) : (u.withCmd w).payload = u.payload := rfl
@[simp] theorem DecodeUnit.withCmd_binding (u : DecodeUnit) (w : Word32) : (u.withCmd w).binding = u.binding := rfl
@[simp] theorem DecodeUnit.withCmd_writes (u : DecodeUnit) (w : Word32) : (u.withCmd w).writes = u.writes := rfl
@[simp] theorem DecodeUnit.withCmd_insertion (u : DecodeUnit) (w : Word32) : (u.withCmd w).insertion = u.insertion := rfl
@[simp] theorem DecodeUnit.withCmd_completion (u : DecodeUnit) (w : Word32) : (u.withCmd w).completion = u.completion := rfl

/-! ### `DecodeUnit.idle` -/

@[simp] theorem DecodeUnit.idle_fmt (u : DecodeUnit) : (u.idle).fmt = u.fmt := rfl
@[simp] theorem DecodeUnit.idle_flags (u : DecodeUnit) : (u.idle).flags = u.flags := rfl
@[simp] theorem DecodeUnit.idle_cspace (u : DecodeUnit) : (u.idle).cspace = u.cspace := rfl
@[simp] theorem DecodeUnit.idle_chtype (u : DecodeUnit) : (u.idle).chtype = u.chtype := rfl
@[simp] theorem DecodeUnit.idle_texW (u : DecodeUnit) : (u.idle).texW = u.texW := rfl
@[simp] theorem DecodeUnit.idle_texH (u : DecodeUnit) : (u.idle).texH = u.texH := rfl
@[simp] theorem DecodeUnit.idle_texDepth (u : DecodeUnit) : (u.idle).texDepth = u.texDepth := rfl
@[simp] theorem DecodeUnit.idle_surfaces (u : DecodeUnit) : (u.idle).surfaces = u.surfaces := rfl
@[simp] theorem DecodeUnit.idle_faces (u : DecodeUnit) : (u.idle).faces = u.faces := rfl
@[simp] theorem DecodeUnit.idle_mipmaps (u : DecodeUnit) : (u.idle).mipmaps = u.mipmaps := rfl
@[simp] theorem DecodeUnit.idle_payloadLen (u : DecodeUnit) : (u.idle).payloadLen = u.payloadLen := rfl
@[simp] theorem DecodeUnit.idle_infoId (u : DecodeUnit) : (u.idle).infoId = u.infoId := rfl
@[simp] theorem DecodeUnit.idle_regX (u : DecodeUnit) : (u.idle).regX = u.regX := rfl
@[simp] theorem DecodeUnit.idle_regY (u : DecodeUnit) : (u.idle).regY = u.regY := rfl
@[simp] theorem DecodeUnit.idle_regW (u : DecodeUnit) : (u.idle).regW = u.regW := rfl
@[simp] theorem DecodeUnit.idle_regH (u : DecodeUnit) : (u.idle).regH = u.regH := rfl
@[simp] theorem DecodeUnit.idle_tgtW (u : DecodeUnit) : (u.idle).tgtW = u.tgtW := rfl
@[simp] theorem DecodeUnit.idle_tgtH (u : DecodeUnit) : (u.idle).tgtH = u.tgtH := rfl
@[simp] theorem DecodeUnit.idle_ctrl (u : DecodeUnit) : (u.idle).ctrl = u.ctrl := rfl
@[simp] theorem DecodeUnit.idle_blkIn (u : DecodeUnit) : (u.idle).blkIn = u.blkIn := rfl
@[simp] theorem DecodeUnit.idle_cmd (u : DecodeUnit) : (u.idle).cmd = none := rfl
@[simp] theorem DecodeUnit.idle_result (u : DecodeUnit) : (u.idle).result = u.result := rfl
@[simp] theorem DecodeUnit.idle_status (u : DecodeUnit) : (u.idle).status = u.status := rfl
@[simp] theorem DecodeUnit.idle_faultInfo (u : DecodeUnit) : (u.idle).faultInfo = u.faultInfo := rfl
@[simp] theorem DecodeUnit.idle_faultSeen (u : DecodeUnit) : (u.idle).faultSeen = u.faultSeen := rfl
@[simp] theorem DecodeUnit.idle_blkOut (u : DecodeUnit) : (u.idle).blkOut = u.blkOut := rfl
@[simp] theorem DecodeUnit.idle_cursor (u : DecodeUnit) : (u.idle).cursor = none := rfl
@[simp] theorem DecodeUnit.idle_payload (u : DecodeUnit) : (u.idle).payload = u.payload := rfl
@[simp] theorem DecodeUnit.idle_binding (u : DecodeUnit) : (u.idle).binding = u.binding := rfl
@[simp] theorem DecodeUnit.idle_writes (u : DecodeUnit) : (u.idle).writes = [] := rfl
@[simp] theorem DecodeUnit.idle_insertion (u : DecodeUnit) : (u.idle).insertion = none := rfl
@[simp] theorem DecodeUnit.idle_completion (u : DecodeUnit) : (u.idle).completion = none := rfl

/-! ### `DecodeUnit.complete` -/

@[simp] theorem DecodeUnit.complete_fmt (u : DecodeUnit) (r : Option Bool) (c : Completion) : (u.complete r c).fmt = u.fmt := rfl
@[simp] theorem DecodeUnit.complete_flags (u : DecodeUnit) (r : Option Bool) (c : Completion) : (u.complete r c).flags = u.flags := rfl
@[simp] theorem DecodeUnit.complete_cspace (u : DecodeUnit) (r : Option Bool) (c : Completion) : (u.complete r c).cspace = u.cspace := rfl
@[simp] theorem DecodeUnit.complete_chtype (u : DecodeUnit) (r : Option Bool) (c : Completion) : (u.complete r c).chtype = u.chtype := rfl
@[simp] theorem DecodeUnit.complete_texW (u : DecodeUnit) (r : Option Bool) (c : Completion) : (u.complete r c).texW = u.texW := rfl
@[simp] theorem DecodeUnit.complete_texH (u : DecodeUnit) (r : Option Bool) (c : Completion) : (u.complete r c).texH = u.texH := rfl
@[simp] theorem DecodeUnit.complete_texDepth (u : DecodeUnit) (r : Option Bool) (c : Completion) : (u.complete r c).texDepth = u.texDepth := rfl
@[simp] theorem DecodeUnit.complete_surfaces (u : DecodeUnit) (r : Option Bool) (c : Completion) : (u.complete r c).surfaces = u.surfaces := rfl
@[simp] theorem DecodeUnit.complete_faces (u : DecodeUnit) (r : Option Bool) (c : Completion) : (u.complete r c).faces = u.faces := rfl
@[simp] theorem DecodeUnit.complete_mipmaps (u : DecodeUnit) (r : Option Bool) (c : Completion) : (u.complete r c).mipmaps = u.mipmaps := rfl
@[simp] theorem DecodeUnit.complete_payloadLen (u : DecodeUnit) (r : Option Bool) (c : Completion) : (u.complete r c).payloadLen = u.payloadLen := rfl
@[simp] theorem DecodeUnit.complete_infoId (u : DecodeUnit) (r : Option Bool) (c : Completion) : (u.complete r c).infoId = u.infoId := rfl
@[simp] theorem DecodeUnit.complete_regX (u : DecodeUnit) (r : Option Bool) (c : Completion) : (u.complete r c).regX = u.regX := rfl
@[simp] theorem DecodeUnit.complete_regY (u : DecodeUnit) (r : Option Bool) (c : Completion) : (u.complete r c).regY = u.regY := rfl
@[simp] theorem DecodeUnit.complete_regW (u : DecodeUnit) (r : Option Bool) (c : Completion) : (u.complete r c).regW = u.regW := rfl
@[simp] theorem DecodeUnit.complete_regH (u : DecodeUnit) (r : Option Bool) (c : Completion) : (u.complete r c).regH = u.regH := rfl
@[simp] theorem DecodeUnit.complete_tgtW (u : DecodeUnit) (r : Option Bool) (c : Completion) : (u.complete r c).tgtW = u.tgtW := rfl
@[simp] theorem DecodeUnit.complete_tgtH (u : DecodeUnit) (r : Option Bool) (c : Completion) : (u.complete r c).tgtH = u.tgtH := rfl
@[simp] theorem DecodeUnit.complete_ctrl (u : DecodeUnit) (r : Option Bool) (c : Completion) : (u.complete r c).ctrl = u.ctrl := rfl
@[simp] theorem DecodeUnit.complete_blkIn (u : DecodeUnit) (r : Option Bool) (c : Completion) : (u.complete r c).blkIn = u.blkIn := rfl
@[simp] theorem DecodeUnit.complete_cmd (u : DecodeUnit) (r : Option Bool) (c : Completion) : (u.complete r c).cmd = none := rfl
@[simp] theorem DecodeUnit.complete_result (u : DecodeUnit) (r : Option Bool) (c : Completion) : (u.complete r c).result = r.getD u.result := rfl
@[simp] theorem DecodeUnit.complete_status (u : DecodeUnit) (r : Option Bool) (c : Completion) : (u.complete r c).status = c.status := rfl
@[simp] theorem DecodeUnit.complete_faultInfo (u : DecodeUnit) (r : Option Bool) (c : Completion) : (u.complete r c).faultInfo = 0 := rfl
@[simp] theorem DecodeUnit.complete_faultSeen (u : DecodeUnit) (r : Option Bool) (c : Completion) : (u.complete r c).faultSeen = u.faultSeen := rfl
@[simp] theorem DecodeUnit.complete_blkOut (u : DecodeUnit) (r : Option Bool) (c : Completion) : (u.complete r c).blkOut = u.blkOut := rfl
@[simp] theorem DecodeUnit.complete_cursor (u : DecodeUnit) (r : Option Bool) (c : Completion) : (u.complete r c).cursor = none := rfl
@[simp] theorem DecodeUnit.complete_payload (u : DecodeUnit) (r : Option Bool) (c : Completion) : (u.complete r c).payload = u.payload := rfl
@[simp] theorem DecodeUnit.complete_binding (u : DecodeUnit) (r : Option Bool) (c : Completion) : (u.complete r c).binding = u.binding := rfl
@[simp] theorem DecodeUnit.complete_writes (u : DecodeUnit) (r : Option Bool) (c : Completion) : (u.complete r c).writes = [] := rfl
@[simp] theorem DecodeUnit.complete_insertion (u : DecodeUnit) (r : Option Bool) (c : Completion) : (u.complete r c).insertion = none := rfl
@[simp] theorem DecodeUnit.complete_completion (u : DecodeUnit) (r : Option Bool) (c : Completion) : (u.complete r c).completion = none := rfl

/-! ### `DecodeUnit.raise` -/

@[simp] theorem DecodeUnit.raise_fmt (u : DecodeUnit) (d : Bool) (e : ErrorKind) : (u.raise d e).fmt = u.fmt := rfl
@[simp] theorem DecodeUnit.raise_flags (u : DecodeUnit) (d : Bool) (e : ErrorKind) : (u.raise d e).flags = u.flags := rfl
@[simp] theorem DecodeUnit.raise_cspace (u : DecodeUnit) (d : Bool) (e : ErrorKind) : (u.raise d e).cspace = u.cspace := rfl
@[simp] theorem DecodeUnit.raise_chtype (u : DecodeUnit) (d : Bool) (e : ErrorKind) : (u.raise d e).chtype = u.chtype := rfl
@[simp] theorem DecodeUnit.raise_texW (u : DecodeUnit) (d : Bool) (e : ErrorKind) : (u.raise d e).texW = u.texW := rfl
@[simp] theorem DecodeUnit.raise_texH (u : DecodeUnit) (d : Bool) (e : ErrorKind) : (u.raise d e).texH = u.texH := rfl
@[simp] theorem DecodeUnit.raise_texDepth (u : DecodeUnit) (d : Bool) (e : ErrorKind) : (u.raise d e).texDepth = u.texDepth := rfl
@[simp] theorem DecodeUnit.raise_surfaces (u : DecodeUnit) (d : Bool) (e : ErrorKind) : (u.raise d e).surfaces = u.surfaces := rfl
@[simp] theorem DecodeUnit.raise_faces (u : DecodeUnit) (d : Bool) (e : ErrorKind) : (u.raise d e).faces = u.faces := rfl
@[simp] theorem DecodeUnit.raise_mipmaps (u : DecodeUnit) (d : Bool) (e : ErrorKind) : (u.raise d e).mipmaps = u.mipmaps := rfl
@[simp] theorem DecodeUnit.raise_payloadLen (u : DecodeUnit) (d : Bool) (e : ErrorKind) : (u.raise d e).payloadLen = u.payloadLen := rfl
@[simp] theorem DecodeUnit.raise_infoId (u : DecodeUnit) (d : Bool) (e : ErrorKind) : (u.raise d e).infoId = u.infoId := rfl
@[simp] theorem DecodeUnit.raise_regX (u : DecodeUnit) (d : Bool) (e : ErrorKind) : (u.raise d e).regX = u.regX := rfl
@[simp] theorem DecodeUnit.raise_regY (u : DecodeUnit) (d : Bool) (e : ErrorKind) : (u.raise d e).regY = u.regY := rfl
@[simp] theorem DecodeUnit.raise_regW (u : DecodeUnit) (d : Bool) (e : ErrorKind) : (u.raise d e).regW = u.regW := rfl
@[simp] theorem DecodeUnit.raise_regH (u : DecodeUnit) (d : Bool) (e : ErrorKind) : (u.raise d e).regH = u.regH := rfl
@[simp] theorem DecodeUnit.raise_tgtW (u : DecodeUnit) (d : Bool) (e : ErrorKind) : (u.raise d e).tgtW = u.tgtW := rfl
@[simp] theorem DecodeUnit.raise_tgtH (u : DecodeUnit) (d : Bool) (e : ErrorKind) : (u.raise d e).tgtH = u.tgtH := rfl
@[simp] theorem DecodeUnit.raise_ctrl (u : DecodeUnit) (d : Bool) (e : ErrorKind) : (u.raise d e).ctrl = u.ctrl := rfl
@[simp] theorem DecodeUnit.raise_blkIn (u : DecodeUnit) (d : Bool) (e : ErrorKind) : (u.raise d e).blkIn = u.blkIn := rfl
@[simp] theorem DecodeUnit.raise_cmd (u : DecodeUnit) (d : Bool) (e : ErrorKind) : (u.raise d e).cmd = none := rfl
@[simp] theorem DecodeUnit.raise_result (u : DecodeUnit) (d : Bool) (e : ErrorKind) : (u.raise d e).result = if d then false else u.result := rfl
@[simp] theorem DecodeUnit.raise_status (u : DecodeUnit) (d : Bool) (e : ErrorKind) : (u.raise d e).status = e.status := rfl
@[simp] theorem DecodeUnit.raise_faultInfo (u : DecodeUnit) (d : Bool) (e : ErrorKind) : (u.raise d e).faultInfo = e.info := rfl
@[simp] theorem DecodeUnit.raise_faultSeen (u : DecodeUnit) (d : Bool) (e : ErrorKind) : (u.raise d e).faultSeen = true := rfl
@[simp] theorem DecodeUnit.raise_blkOut (u : DecodeUnit) (d : Bool) (e : ErrorKind) : (u.raise d e).blkOut = u.blkOut := rfl
@[simp] theorem DecodeUnit.raise_cursor (u : DecodeUnit) (d : Bool) (e : ErrorKind) : (u.raise d e).cursor = none := rfl
@[simp] theorem DecodeUnit.raise_payload (u : DecodeUnit) (d : Bool) (e : ErrorKind) : (u.raise d e).payload = u.payload := rfl
@[simp] theorem DecodeUnit.raise_binding (u : DecodeUnit) (d : Bool) (e : ErrorKind) : (u.raise d e).binding = u.binding := rfl
@[simp] theorem DecodeUnit.raise_writes (u : DecodeUnit) (d : Bool) (e : ErrorKind) : (u.raise d e).writes = [] := rfl
@[simp] theorem DecodeUnit.raise_insertion (u : DecodeUnit) (d : Bool) (e : ErrorKind) : (u.raise d e).insertion = none := rfl
@[simp] theorem DecodeUnit.raise_completion (u : DecodeUnit) (d : Bool) (e : ErrorKind) : (u.raise d e).completion = none := rfl

/-! ### `State.withUnit` -/

@[simp] theorem State.withUnit_params (s : State) (v : DecodeUnit) : (s.withUnit v).params = s.params := rfl
@[simp] theorem State.withUnit_unitId (s : State) (v : DecodeUnit) : (s.withUnit v).unitId = s.unitId := rfl
@[simp] theorem State.withUnit_unit (s : State) (v : DecodeUnit) : (s.withUnit v).unit = v := rfl
@[simp] theorem State.withUnit_peers (s : State) (v : DecodeUnit) : (s.withUnit v).peers = s.peers := rfl
@[simp] theorem State.withUnit_targets (s : State) (v : DecodeUnit) : (s.withUnit v).targets = s.targets := rfl
@[simp] theorem State.withUnit_cache (s : State) (v : DecodeUnit) : (s.withUnit v).cache = s.cache := rfl
@[simp] theorem State.withUnit_gapOps (s : State) (v : DecodeUnit) : (s.withUnit v).gapOps = s.gapOps := rfl
@[simp] theorem State.withUnit_host (s : State) (v : DecodeUnit) : (s.withUnit v).host = s.host := rfl

/-! ### `State.withTargets` -/

@[simp] theorem State.withTargets_params (s : State) (ts : List (Nat × List (Nat × Word32))) : (s.withTargets ts).params = s.params := rfl
@[simp] theorem State.withTargets_unitId (s : State) (ts : List (Nat × List (Nat × Word32))) : (s.withTargets ts).unitId = s.unitId := rfl
@[simp] theorem State.withTargets_unit (s : State) (ts : List (Nat × List (Nat × Word32))) : (s.withTargets ts).unit = s.unit := rfl
@[simp] theorem State.withTargets_peers (s : State) (ts : List (Nat × List (Nat × Word32))) : (s.withTargets ts).peers = s.peers := rfl
@[simp] theorem State.withTargets_targets (s : State) (ts : List (Nat × List (Nat × Word32))) : (s.withTargets ts).targets = ts := rfl
@[simp] theorem State.withTargets_cache (s : State) (ts : List (Nat × List (Nat × Word32))) : (s.withTargets ts).cache = s.cache := rfl
@[simp] theorem State.withTargets_gapOps (s : State) (ts : List (Nat × List (Nat × Word32))) : (s.withTargets ts).gapOps = s.gapOps := rfl
@[simp] theorem State.withTargets_host (s : State) (ts : List (Nat × List (Nat × Word32))) : (s.withTargets ts).host = s.host := rfl

/-! ### `State.withCache` -/

@[simp] theorem State.withCache_params (s : State) (c : List CacheEntry) : (s.withCache c).params = s.params := rfl
@[simp] theorem State.withCache_unitId (s : State) (c : List CacheEntry) : (s.withCache c).unitId = s.unitId := rfl
@[simp] theorem State.withCache_unit (s : State) (c : List CacheEntry) : (s.withCache c).unit = s.unit := rfl
@[simp] theorem State.withCache_peers (s : State) (c : List CacheEntry) : (s.withCache c).peers = s.peers := rfl
@[simp] theorem State.withCache_targets (s : State) (c : List CacheEntry) : (s.withCache c).targets = s.targets := rfl
@[simp] theorem State.withCache_cache (s : State) (c : List CacheEntry) : (s.withCache c).cache = c := rfl
@[simp] theorem State.withCache_gapOps (s : State) (c : List CacheEntry) : (s.withCache c).gapOps = s.gapOps := rfl
@[simp] theorem State.withCache_host (s : State) (c : List CacheEntry) : (s.withCache c).host = s.host := rfl

/-! ### `State.withGapOps` -/

@[simp] theorem State.withGapOps_params (s : State) (ops : List CacheOp) : (s.withGapOps ops).params = s.params := rfl
@[simp] theorem State.withGapOps_unitId (s : State) (ops : List CacheOp) : (s.withGapOps ops).unitId = s.unitId := rfl
@[simp] theorem State.withGapOps_unit (s : State) (ops : List CacheOp) : (s.withGapOps ops).unit = s.unit := rfl
@[simp] theorem State.withGapOps_peers (s : State) (ops : List CacheOp) : (s.withGapOps ops).peers = s.peers := rfl
@[simp] theorem State.withGapOps_targets (s : State) (ops : List CacheOp) : (s.withGapOps ops).targets = s.targets := rfl
@[simp] theorem State.withGapOps_cache (s : State) (ops : List CacheOp) : (s.withGapOps ops).cache = s.cache := rfl
@[simp] theorem State.withGapOps_gapOps (s : State) (ops : List CacheOp) : (s.withGapOps ops).gapOps = ops := rfl
@[simp] theorem State.withGapOps_host (s : State) (ops : List CacheOp) : (s.withGapOps ops).host = s.host := rfl

/-! ### `State.withHost` -/

@[simp] theorem State.withHost_params (s : State) (es : List HostEvent) : (s.withHost es).params = s.params := rfl
@[simp] theorem State.withHost_unitId (s : State) (es : List HostEvent) : (s.withHost es).unitId = s.unitId := rfl
@[simp] theorem State.withHost_unit (s : State) (es : List HostEvent) : (s.withHost es).unit = s.unit := rfl
@[simp] theorem State.withHost_peers (s : State) (es : List HostEvent) : (s.withHost es).peers = s.peers := rfl
@[simp] theorem State.withHost_targets (s : State) (es : List HostEvent) : (s.withHost es).targets = s.targets := rfl
@[simp] theorem State.withHost_cache (s : State) (es : List HostEvent) : (s.withHost es).cache = s.cache := rfl
@[simp] theorem State.withHost_gapOps (s : State) (es : List HostEvent) : (s.withHost es).gapOps = s.gapOps := rfl
@[simp] theorem State.withHost_host (s : State) (es : List HostEvent) : (s.withHost es).host = es := rfl

/-! ### `State.complete` -/

@[simp] theorem State.complete_params (s : State) (r : Option Bool) (c : Completion) : (s.complete r c).params = s.params := rfl
@[simp] theorem State.complete_unitId (s : State) (r : Option Bool) (c : Completion) : (s.complete r c).unitId = s.unitId := rfl
@[simp] theorem State.complete_unit (s : State) (r : Option Bool) (c : Completion) : (s.complete r c).unit = s.unit.complete r c := rfl
@[simp] theorem State.complete_peers (s : State) (r : Option Bool) (c : Completion) : (s.complete r c).peers = s.peers := rfl
@[simp] theorem State.complete_targets (s : State) (r : Option Bool) (c : Completion) : (s.complete r c).targets = s.targets := rfl
@[simp] theorem State.complete_cache (s : State) (r : Option Bool) (c : Completion) : (s.complete r c).cache = s.cache := rfl
@[simp] theorem State.complete_gapOps (s : State) (r : Option Bool) (c : Completion) : (s.complete r c).gapOps = s.gapOps := rfl
@[simp] theorem State.complete_host (s : State) (r : Option Bool) (c : Completion) : (s.complete r c).host = s.host := rfl

/-! ### `State.raise` -/

@[simp] theorem State.raise_params (s : State) (d : Bool) (e : ErrorKind) : (s.raise d e).params = s.params := rfl
@[simp] theorem State.raise_unitId (s : State) (d : Bool) (e : ErrorKind) : (s.raise d e).unitId = s.unitId := rfl
@[simp] theorem State.raise_unit (s : State) (d : Bool) (e : ErrorKind) : (s.raise d e).unit = s.unit.raise d e := rfl
@[simp] theorem State.raise_peers (s : State) (d : Bool) (e : ErrorKind) : (s.raise d e).peers = s.peers := rfl
@[simp] theorem State.raise_targets (s : State) (d : Bool) (e : ErrorKind) : (s.raise d e).targets = s.targets := rfl
@[simp] theorem State.raise_cache (s : State) (d : Bool) (e : ErrorKind) : (s.raise d e).cache = s.cache := rfl
@[simp] theorem State.raise_gapOps (s : State) (d : Bool) (e : ErrorKind) : (s.raise d e).gapOps = s.gapOps := rfl
@[simp] theorem State.raise_host (s : State) (d : Bool) (e : ErrorKind) : (s.raise d e).host = s.host := rfl

/-! ### The configuration registers as one family -/

@[simp] theorem DecodeUnit.withCursor_config (u : DecodeUnit) (c : Cursor) (q : ConfigReg) :
    (u.withCursor c).config q = u.config q := by cases q <;> rfl
@[simp] theorem DecodeUnit.withWrites_config (u : DecodeUnit) (ws : List (Nat × Word32)) (q : ConfigReg) :
    (u.withWrites ws).config q = u.config q := by cases q <;> rfl
@[simp] theorem DecodeUnit.withInsertion_config (u : DecodeUnit) (e : Option (Word32 × Bitmap)) (q : ConfigReg) :
    (u.withInsertion e).config q = u.config q := by cases q <;> rfl
@[simp] theorem DecodeUnit.pend_config (u : DecodeUnit) (e : Option (Word32 × Bitmap)) (k : Completion) (q : ConfigReg) :
    (u.pend e k).config q = u.config q := by cases q <;> rfl
@[simp] theorem DecodeUnit.withBlkOut_config (u : DecodeUnit) (o : Vector (Option Pixel) 32) (q : ConfigReg) :
    (u.withBlkOut o).config q = u.config q := by cases q <;> rfl
@[simp] theorem DecodeUnit.withCmd_config (u : DecodeUnit) (w : Word32) (q : ConfigReg) :
    (u.withCmd w).config q = u.config q := by cases q <;> rfl
@[simp] theorem DecodeUnit.idle_config (u : DecodeUnit) (q : ConfigReg) :
    (u.idle).config q = u.config q := by cases q <;> rfl
@[simp] theorem DecodeUnit.complete_config (u : DecodeUnit) (r : Option Bool) (c : Completion) (q : ConfigReg) :
    (u.complete r c).config q = u.config q := by cases q <;> rfl
@[simp] theorem DecodeUnit.raise_config (u : DecodeUnit) (d : Bool) (e : ErrorKind) (q : ConfigReg) :
    (u.raise d e).config q = u.config q := by cases q <;> rfl

theorem DecodeUnit.setConfig_config (u : DecodeUnit) (r q : ConfigReg) (v : Word32) :
    (u.setConfig r v).config q = if q = r then some v else u.config q := by
  cases r <;> cases q <;> rfl

@[simp] theorem DecodeUnit.setConfig_config_same (u : DecodeUnit) (r : ConfigReg) (v : Word32) :
    (u.setConfig r v).config r = some v := by cases r <;> rfl

@[simp] theorem DecodeUnit.setConfig_fmt (u : DecodeUnit) (r : ConfigReg) (v : Word32) :
    (u.setConfig r v).fmt = u.fmt := by cases r <;> rfl
@[simp] theorem DecodeUnit.setConfig_blkIn (u : DecodeUnit) (r : ConfigReg) (v : Word32) :
    (u.setConfig r v).blkIn = u.blkIn := by cases r <;> rfl
@[simp] theorem DecodeUnit.setConfig_cmd (u : DecodeUnit) (r : ConfigReg) (v : Word32) :
    (u.setConfig r v).cmd = u.cmd := by cases r <;> rfl
@[simp] theorem DecodeUnit.setConfig_result (u : DecodeUnit) (r : ConfigReg) (v : Word32) :
    (u.setConfig r v).result = u.result := by cases r <;> rfl
@[simp] theorem DecodeUnit.setConfig_status (u : DecodeUnit) (r : ConfigReg) (v : Word32) :
    (u.setConfig r v).status = u.status := by cases r <;> rfl
@[simp] theorem DecodeUnit.setConfig_faultInfo (u : DecodeUnit) (r : ConfigReg) (v : Word32) :
    (u.setConfig r v).faultInfo = u.faultInfo := by cases r <;> rfl
@[simp] theorem DecodeUnit.setConfig_faultSeen (u : DecodeUnit) (r : ConfigReg) (v : Word32) :
    (u.setConfig r v).faultSeen = u.faultSeen := by cases r <;> rfl
@[simp] theorem DecodeUnit.setConfig_blkOut (u : DecodeUnit) (r : ConfigReg) (v : Word32) :
    (u.setConfig r v).blkOut = u.blkOut := by cases r <;> rfl
@[simp] theorem DecodeUnit.setConfig_cursor (u : DecodeUnit) (r : ConfigReg) (v : Word32) :
    (u.setConfig r v).cursor = u.cursor := by cases r <;> rfl
@[simp] theorem DecodeUnit.setConfig_payload (u : DecodeUnit) (r : ConfigReg) (v : Word32) :
    (u.setConfig r v).payload = u.payload := by cases r <;> rfl
@[simp] theorem DecodeUnit.setConfig_binding (u : DecodeUnit) (r : ConfigReg) (v : Word32) :
    (u.setConfig r v).binding = u.binding := by cases r <;> rfl
@[simp] theorem DecodeUnit.setConfig_writes (u : DecodeUnit) (r : ConfigReg) (v : Word32) :
    (u.setConfig r v).writes = u.writes := by cases r <;> rfl
@[simp] theorem DecodeUnit.setConfig_insertion (u : DecodeUnit) (r : ConfigReg) (v : Word32) :
    (u.setConfig r v).insertion = u.insertion := by cases r <;> rfl
@[simp] theorem DecodeUnit.setConfig_completion (u : DecodeUnit) (r : ConfigReg) (v : Word32) :
    (u.setConfig r v).completion = u.completion := by cases r <;> rfl

/-! ### Two updates of one field -/

@[simp] theorem DecodeUnit.withWrites_withWrites (u : DecodeUnit) (ws ws' : List (Nat × Word32)) :
    (u.withWrites ws).withWrites ws' = u.withWrites ws' := rfl

@[simp] theorem DecodeUnit.idle_idle (u : DecodeUnit) : u.idle.idle = u.idle := rfl

@[simp] theorem DecodeUnit.complete_idle (u : DecodeUnit) (r : Option Bool) (k : Completion) :
    (u.complete r k).idle = u.complete r k := rfl

@[simp] theorem DecodeUnit.raise_idle (u : DecodeUnit) (d : Bool) (e : ErrorKind) : (u.raise d e).idle = u.raise d e := rfl

@[simp] theorem DecodeUnit.idle_complete (u : DecodeUnit) (r : Option Bool) (k : Completion) :
    u.idle.complete r k = u.complete r k := rfl

@[simp] theorem State.withUnit_withUnit (s : State) (u v : DecodeUnit) : (s.withUnit u).withUnit v = s.withUnit v := rfl

@[simp] theorem State.withUnit_self (s : State) : s.withUnit s.unit = s := rfl

end Sys2Proof.Machine
end

