-- ==== Sys2Proof/Laws/Ops.lean ====
section
/-! SUPPORT. What each shared operation can do, said once: the reads of registers and latch, the two memory accesses, the
end of a command, the packing of a pixel. -/

namespace Sys2Proof.Machine

/-- A register read answers the register's value, or raises `UnsetConfig` with the register's id (R257). -/
theorem readConfig_eq (u : DecodeUnit) (r : ConfigReg) :
    readConfig u r = match u.config r with
      | some v => .ok v
      | none => .error (.raise (.unsetConfig (.config r))) := rfl

theorem readConfig_some {u : DecodeUnit} {r : ConfigReg} {v : Word32} (h : u.config r = some v) :
    readConfig u r = .ok v := by simp [readConfig, h]

theorem readConfig_none {u : DecodeUnit} {r : ConfigReg} (h : u.config r = none) :
    readConfig u r = .error (.raise (.unsetConfig (.config r))) := by simp [readConfig, h]

theorem readConfig_ok_iff {u : DecodeUnit} {r : ConfigReg} {v : Word32} :
    readConfig u r = .ok v ↔ u.config r = some v := by
  cases h : u.config r <;> simp [readConfig, h]

/-- The format read answers or raises `UnsetConfig(FMT)`. -/
theorem readFmt_some {u : DecodeUnit} (h : u.fmt.isSome = true) : readFmt u = .ok () := by
  obtain ⟨f, hf⟩ := Option.isSome_iff_exists.mp h
  simp [readFmt, hf]

theorem readFmt_none {u : DecodeUnit} (h : u.fmt = none) : readFmt u = .error (.raise (.unsetConfig .fmt)) := by
  simp [readFmt, h]

/-- The latch read answers the bytes, or raises `UnsetConfig(BLK_IN)`. -/
theorem readLatch_eq (u : DecodeUnit) (n : Nat) :
    readLatch u n = match (u.blkIn.toList.take n).mapM id with
      | some bytes => .ok bytes
      | none => .error (.raise (.unsetConfig .blkIn)) := rfl

/-- A list of written entries reads as its values. -/
theorem mapM_id_map_some {α : Type} (l : List α) : (l.map some).mapM id = some l := by
  induction l with
  | nil => rfl
  | cons a rest ih => simp [ih]

/-- A list with an unwritten entry does not read. -/
theorem mapM_id_none {α : Type} (l : List (Option α)) (h : none ∈ l) : l.mapM id = none := by
  induction l with
  | nil => cases h
  | cons a rest ih =>
    rcases List.mem_cons.mp h with hn | hn
    · subst hn; simp
    · cases a with
      | none => simp
      | some a => simp [ih hn]

/-- The bytes a latch read answers are the latch's. -/
theorem mapM_id_eq_some {α : Type} {l : List (Option α)} {bs : List α} (h : l.mapM id = some bs) : l = bs.map some := by
  induction l generalizing bs with
  | nil => simp at h; subst h; rfl
  | cons a rest ih =>
    cases a with
    | none => simp at h
    | some a =>
      cases hr : rest.mapM id with
      | none => simp [hr] at h
      | some cs => simp [hr] at h; subst h; simp [ih hr]

theorem readLatch_written {u : DecodeUnit} {n : Nat} {bytes : List Byte} (h : LatchHolds u n bytes) :
    readLatch u n = .ok bytes := by
  rw [readLatch, show u.blkIn.toList.take n = bytes.map some from h, mapM_id_map_some]

theorem readLatch_unwritten {u : DecodeUnit} {n : Nat} (h : none ∈ u.blkIn.toList.take n) :
    readLatch u n = .error (.raise (.unsetConfig .blkIn)) := by
  simp [readLatch, mapM_id_none _ h]

theorem readLatch_ok {u : DecodeUnit} {n : Nat} {bytes : List Byte} (h : readLatch u n = .ok bytes) :
    LatchHolds u n bytes := by
  unfold readLatch at h
  split at h
  · next b hb => cases h; exact mapM_id_eq_some hb
  · cases h

/-- A latch write puts value `j` of the list at entry `k + j` and leaves the other entries. -/
theorem writeLatch_getElem {α : Type} (vs : List α) (latch : Vector (Option α) 32) (k i : Nat) (hi : i < 32) :
    (writeLatch latch k vs)[i] = if k ≤ i ∧ i < k + vs.length then vs[i - k]? else latch[i] := by
  induction vs generalizing latch k with
  | nil => rw [if_neg (by simp)]; rfl
  | cons v rest ih =>
    rw [writeLatch, ih]
    simp only [List.length_cons]
    by_cases hk : k = i
    · subst hk
      rw [if_neg (by omega), if_pos (by omega)]
      simp
    · rw [Vector.getElem_setIfInBounds_ne hi hk]
      by_cases hr : k + 1 ≤ i ∧ i < k + 1 + rest.length
      · rw [if_pos hr, if_pos (by omega)]
        obtain ⟨d, hd⟩ : ∃ d, i - k = d + 1 := ⟨i - k - 1, by omega⟩
        rw [hd, List.getElem?_cons_succ, show i - (k + 1) = d by omega]
      · rw [if_neg hr, if_neg (by omega)]

/-- The output latch after a BLOCK (R40). -/
theorem blkOutAfter_get (old : Vector (Option Pixel) 32) (tile : List Pixel) (i : Fin 32) :
    (blkOutAfter old tile).get i = if i.val < tile.length then some (tileAt tile i.val) else old.get i := by
  have h := writeLatch_getElem tile old 0 i.val i.isLt
  simp only [Nat.zero_le, Nat.zero_add, true_and, Nat.sub_zero] at h
  rw [blkOutAfter, Vector.get_eq_getElem, h, Vector.get_eq_getElem]
  split
  · next hi => simp [tileAt, List.getD_eq_getElem?_getD, List.getElem?_eq_getElem hi]
  · rfl

/-- A payload read inside the array answers its bytes (R50). -/
theorem memRead_ok {u : DecodeUnit} {a n : Nat} (h : a + n ≤ payloadBytes u) : memRead u a n = .ok (payloadSlice u a n) := by
  simp [memRead, h, payloadSlice, List.range'_eq_map_range]

/-- A target write inside the array is one word write of the command (R52, R62). -/
theorem memWrite_ok {u : DecodeUnit} {i : Nat} (p : Pixel) (h : i < targetWords u) :
    memWrite u i p = .ok (u.withWrites (u.writes ++ [(i, p.pack)])) := by simp [memWrite, h]

/-- A command answers a next state where it completes or raises. -/
theorem finish_next_iff {s t : State} {d : Bool} {r : Except Stop State} :
    finish s d r = .next t ↔ r = .ok t ∨ ∃ e, r = .error (.raise e) ∧ t = s.raise d e := by
  unfold finish
  split <;> simp [eq_comm]

@[simp] theorem finish_ok (s t : State) (d : Bool) : finish s d (.ok t) = .next t := rfl

@[simp] theorem finish_raise (s : State) (d : Bool) (e : ErrorKind) :
    finish s d (.error (.raise e)) = .next (s.raise d e) := rfl

theorem finish_fault_iff {s : State} {d : Bool} {r : Except Stop State} {f : Fault} :
    finish s d r = .fault f ↔ r = .error (.fault f) := by
  unfold finish
  split <;> simp

theorem finish_refused_iff {s : State} {d : Bool} {r : Except Stop State} {q : Refusal} :
    finish s d r = .refused q ↔ r = .error (.refuse q) := by
  unfold finish
  split <;> simp

/-- The raise as the statements write it. -/
theorem State.raise_eq_raised (s : State) (d : Bool) (e : ErrorKind) : s.raise d e = s.raised d e.status e.info := rfl

/-- The bits of a packed pixel (R52). -/
theorem Pixel.getLsbD_pack (p : Pixel) (j : Nat) :
    p.pack.getLsbD j =
      if j < 8 then p.b.getLsbD j
      else if j < 16 then p.g.getLsbD (j - 8)
      else if j < 24 then p.r.getLsbD (j - 16)
      else p.a.getLsbD (j - 24) := by
  change ((p.a ++ p.r ++ p.g ++ p.b : BitVec (8 + 8 + 8 + 8))).getLsbD j = _
  simp only [BitVec.getLsbD_append, show (j - 8 < 8) = (j < 16 ∨ j < 8) by simp; omega, Nat.sub_sub]
  split_ifs <;> first | rfl | omega

/-- A pixel is its packed word's pixel. -/
@[simp] theorem Pixel.unpack_pack (p : Pixel) : Pixel.unpack p.pack = p := by
  obtain ⟨r, g, b, a⟩ := p
  simp only [Pixel.unpack, Pixel.mk.injEq]
  refine ⟨?_, ?_, ?_, ?_⟩ <;> ext i hi <;> simp only [BitVec.getElem_extractLsb', Pixel.getLsbD_pack] <;>
    rw [← BitVec.getLsbD_eq_getElem] <;> split_ifs <;> first | omega | (congr 1; omega)

/-- A bit is 0 or 1, and reads like the bit-vector's own. -/
theorem bit_eq {n : Nat} (v : BitVec n) (i : Nat) : bit v i = (v.getLsbD i).toNat := by
  simp only [bit, bits, Nat.add_sub_cancel_left, pow_one, BitVec.getLsbD, Nat.testBit, Nat.shiftRight_eq_div_pow]
  rcases Nat.mod_two_eq_zero_or_one (v.toNat / 2 ^ i) with h | h <;> simp [h, Nat.one_and_eq_mod_two]

theorem argumentsPresent_iff (c : Word32) :
    argumentsPresent c = true ↔ c.getLsbD 0 = true ∧ c.getLsbD 1 = true := by
  simp only [argumentsPresent, bit_eq]
  cases c.getLsbD 0 <;> cases c.getLsbD 1 <;> simp

end Sys2Proof.Machine
end

