-- ==== Sys2Proof/Laws/Cache.lean ====
section
/-! SUPPORT. What each operation of the cache device does to its entries, said once (60_exceptions.md R262 to R264). -/

namespace Sys2Proof.Machine

theorem cacheFind_some {c : List CacheEntry} {k : Word32} {e : CacheEntry} (h : cacheFind c k = some e) :
    e ∈ c ∧ e.key = k := by
  have h1 := List.mem_of_find?_eq_some h
  have h2 := List.find?_some h
  exact ⟨h1, by simpa using h2⟩

theorem cacheFind_none_iff {c : List CacheEntry} {k : Word32} : cacheFind c k = none ↔ k ∉ cacheKeys c := by
  simp only [cacheFind, List.find?_eq_none, beq_iff_eq, cacheKeys, List.mem_map, not_exists, not_and]

/-- An entry removed and put back at the end is a reordering of the keys. -/
theorem cacheRemove_perm {c : List CacheEntry} {k : Word32} {e : CacheEntry} (h : cacheFind c k = some e) :
    (k :: cacheKeys (cacheRemove c k)).Perm (cacheKeys c) := by
  induction c with
  | nil => cases h
  | cons d rest ih =>
    by_cases hd : d.key = k
    · simp [cacheRemove, hd, cacheKeys]
    · have hr : cacheFind rest k = some e := by
        simpa [cacheFind, List.find?_cons, hd] using h
      have hrm : cacheRemove (d :: rest) k = d :: cacheRemove rest k := by simp [cacheRemove, hd]
      rw [hrm]
      exact (List.Perm.swap _ _ _).trans (List.Perm.cons _ (ih hr))

theorem cacheKeys_append (c d : List CacheEntry) : cacheKeys (c ++ d) = cacheKeys c ++ cacheKeys d := by
  simp [cacheKeys]

@[simp] theorem cacheKeys_length (c : List CacheEntry) : (cacheKeys c).length = c.length := by simp [cacheKeys]

/-- The keys after an entry with a key of the cache is moved or replaced at the end. -/
theorem keys_replaced_perm {c : List CacheEntry} {k : Word32} {e : CacheEntry} (h : cacheFind c k = some e)
    (b : Bitmap) : (cacheKeys (cacheRemove c k ++ [{ key := k, bitmap := b }])).Perm (cacheKeys c) := by
  rw [cacheKeys_append]
  exact (List.perm_append_singleton k _).trans (cacheRemove_perm h)

theorem CacheInv.of_perm {c d : List CacheEntry} (h : CacheInv c) (hp : (cacheKeys d).Perm (cacheKeys c)) : CacheInv d :=
  ⟨by have := hp.length_eq; simp only [cacheKeys_length] at this; have := h.bound; omega, hp.nodup_iff.mpr h.distinct⟩

/-- A lookup keeps the cache well-formed. -/
theorem CacheInv.lookup {c : List CacheEntry} (h : CacheInv c) (k : Word32) : CacheInv (cacheLookup c k).2 := by
  unfold cacheLookup
  split
  · next e he =>
    have : e = { key := k, bitmap := e.bitmap } := by rw [← (cacheFind_some he).2]
    rw [this]
    exact h.of_perm (keys_replaced_perm he e.bitmap)
  · exact h

/-- An insertion keeps the cache well-formed. -/
theorem CacheInv.insert {c : List CacheEntry} (h : CacheInv c) (k : Word32) (b : Bitmap) :
    CacheInv (cacheInsert c k b) := by
  unfold cacheInsert
  split
  · next e he => exact h.of_perm (keys_replaced_perm he b)
  · next hn =>
    rw [cacheFind_none_iff] at hn
    have hb := h.bound
    have hd := h.distinct
    split
    · next hl =>
      refine ⟨by simp [hl, Config.cacheCap], ?_⟩
      have hsub : (cacheKeys (c.drop 1)).Sublist (cacheKeys c) := (List.drop_sublist 1 c).map _
      rw [cacheKeys_append]
      refine List.nodup_append.mpr ⟨hd.sublist hsub, by simp [cacheKeys], fun a ha b' hb' hab => ?_⟩
      simp [cacheKeys] at hb'
      exact hn (hb' ▸ hab ▸ hsub.subset ha)
    · next hl =>
      refine ⟨by simp only [List.length_append, List.length_singleton, Config.cacheCap] at hl ⊢; omega, ?_⟩
      rw [cacheKeys_append]
      refine List.nodup_append.mpr ⟨hd, by simp [cacheKeys], fun a ha b' hb' hab => ?_⟩
      simp [cacheKeys] at hb'
      exact hn (hb' ▸ hab ▸ ha)

theorem CacheInv.nil : CacheInv [] := ⟨by simp, by simp [cacheKeys]⟩

/-- Any operations of any units keep the cache well-formed. -/
theorem CacheInv.applyAll (ops : List CacheOp) {c : List CacheEntry} (h : CacheInv c) :
    CacheInv (cacheApplyAll c ops) := by
  induction ops generalizing c with
  | nil => exact h
  | cons op rest ih =>
    refine ih ?_
    cases op with
    | lookup k => exact h.lookup k
    | insert k b => exact h.insert k b
    | flush => exact CacheInv.nil

end Sys2Proof.Machine
end

