-- ==== Sys2Proof/Laws/Target.lean ====
section
/-! SUPPORT. Rectangles walked in raster order, target memories after a list of word writes, and the writes that a loop of
a command makes. -/

namespace Sys2Proof.Machine

theorem mem_raster {x0 y0 x1 y1 : Nat} {p : Nat × Nat} :
    p ∈ raster x0 y0 x1 y1 ↔ x0 ≤ p.1 ∧ p.1 < x1 ∧ y0 ≤ p.2 ∧ p.2 < y1 := by
  obtain ⟨x, y⟩ := p
  simp only [raster, List.mem_flatMap, List.mem_range'_1, List.mem_map, Prod.mk.injEq]
  constructor
  · rintro ⟨a, ha, b, hb, rfl, rfl⟩; omega
  · intro h; exact ⟨y, by omega, x, by omega, rfl, rfl⟩

theorem contains_iff (r : Rect) (x y : Nat) :
    r.contains x y = true ↔ r.x0 ≤ x ∧ x < r.x1 ∧ r.y0 ≤ y ∧ y < r.y1 := by
  simp [Rect.contains, and_assoc]

/-- Two positions left of the row width that share a word are one position (R52). -/
theorem index_inj {w x y x' y' : Nat} (hx : x < w) (hx' : x' < w) (h : y * w + x = y' * w + x') : x = x' ∧ y = y' := by
  have key : ∀ a b, b < w → (a * w + b) % w = b := fun a b hb => by
    rw [Nat.mul_comm, Nat.mul_add_mod, Nat.mod_eq_of_lt hb]
  have hmod : x = x' := by rw [← key y x hx, h, key y' x' hx']
  subst hmod
  refine ⟨rfl, ?_⟩
  have : y * w = y' * w := by omega
  exact Nat.eq_of_mul_eq_mul_right (by omega) this

/-- A position inside the bounds is a word inside the target. -/
theorem index_lt {w h x y : Nat} (hx : x < w) (hy : y < h) : y * w + x < w * h := by
  calc y * w + x < y * w + w := by omega
    _ = w * (y + 1) := by ring
    _ ≤ w * h := Nat.mul_le_mul_left w hy

/-- The target after the writes of a list, first to last. -/
def writeAll (t : List (Nat × Word32)) (ws : List (Nat × Word32)) : List (Nat × Word32) :=
  ws.foldl (fun t w => Memory.write t w.1 w.2) t

@[simp] theorem writeAll_nil (t : List (Nat × Word32)) : writeAll t [] = t := rfl

theorem writeAll_cons (t : List (Nat × Word32)) (w : Nat × Word32) (ws : List (Nat × Word32)) :
    writeAll t (w :: ws) = writeAll (Memory.write t w.1 w.2) ws := rfl

theorem writeAll_append (t : List (Nat × Word32)) (ws ws' : List (Nat × Word32)) :
    writeAll t (ws ++ ws') = writeAll (writeAll t ws) ws' := by simp [writeAll]

/-- A word no write names keeps its value. -/
theorem read_writeAll_other (ws : List (Nat × Word32)) (t : List (Nat × Word32)) (a : Nat) (h : ∀ w ∈ ws, w.1 ≠ a) :
    Memory.read (writeAll t ws) a = Memory.read t a := by
  induction ws generalizing t with
  | nil => rfl
  | cons w rest ih =>
    rw [writeAll_cons, ih _ fun w' hw' => h w' (List.mem_cons_of_mem _ hw'),
      Memory.read_write_other _ _ (Ne.symm (h w List.mem_cons_self))]

/-- A word that every write of it gives one value has that value. -/
theorem read_writeAll_mem (ws : List (Nat × Word32)) (t : List (Nat × Word32)) (a : Nat) (v : Word32) (hm : (a, v) ∈ ws)
    (hv : ∀ w ∈ ws, w.1 = a → w.2 = v) : Memory.read (writeAll t ws) a = some v := by
  induction ws using List.reverseRecOn with
  | nil => cases hm
  | append_singleton ws w ih =>
    rw [writeAll_append]
    change Memory.read (Memory.write _ w.1 w.2) a = some v
    by_cases hw : w.1 = a
    · rw [Memory.read_write, if_pos hw.symm, hv w (by simp) hw]
    · rw [Memory.read_write_other _ _ (Ne.symm hw)]
      refine ih ?_ fun w' hw' => hv w' (by simp [hw'])
      rcases List.mem_append.mp hm with h | h
      · exact h
      · simp at h; subst h; exact absurd rfl hw

theorem wf_writeAll (ws : List (Nat × Word32)) (t : List (Nat × Word32)) (h : Memory.wf t = true) :
    Memory.wf (writeAll t ws) = true := by
  induction ws generalizing t with
  | nil => exact h
  | cons w rest ih => exact ih _ (Memory.wf_write t w.1 w.2 h)

/-- What the target memories hold after a list of word writes to one of them (R286). -/
theorem targetOf_writeTargets (ws : List (Nat × Word32)) (ts : List (Nat × List (Nat × Word32))) (b c : Nat) :
    targetOf (writeTargets ts b ws) c = if c = b then writeAll (targetOf ts b) ws else targetOf ts c := by
  induction ws generalizing ts with
  | nil => by_cases h : c = b <;> simp [writeTargets, h]
  | cons w rest ih =>
    have e : writeTargets ts b (w :: rest) = writeTargets (writeTargetWord ts b w.1 w.2) b rest := rfl
    rw [e, ih, targetOf_writeTargetWord, targetOf_writeTargetWord, if_pos rfl, writeAll_cons]
    split <;> rfl

theorem writeTargets_append (ts : List (Nat × List (Nat × Word32))) (b : Nat) (ws ws' : List (Nat × Word32)) :
    writeTargets ts b (ws ++ ws') = writeTargets (writeTargets ts b ws) b ws' := by simp [writeTargets]

/-- Writes that give each word one value may be made in any order, and made again (R62). -/
theorem writeTargets_congr {ts : List (Nat × List (Nat × Word32))} {b : Nat} {ws ws' : List (Nat × Word32)}
    (ht : targetsWf ts = true) (hm : ∀ w, w ∈ ws ↔ w ∈ ws') (hv : ∀ w ∈ ws, ∀ w' ∈ ws, w.1 = w'.1 → w.2 = w'.2) :
    writeTargets ts b ws = writeTargets ts b ws' := by
  refine targets_ext (targetsWf_writeTargets ws ht b) (targetsWf_writeTargets ws' ht b) fun c => ?_
  rw [targetOf_writeTargets, targetOf_writeTargets]
  split
  · refine Memory.ext_read _ _ (wf_writeAll ws _ (wf_targetOf ht b)) (wf_writeAll ws' _ (wf_targetOf ht b)) fun a => ?_
    by_cases h : ∃ v, (a, v) ∈ ws
    · obtain ⟨v, h⟩ := h
      rw [read_writeAll_mem ws _ a v h fun w hw hwa => hv w hw _ h hwa,
        read_writeAll_mem ws' _ a v ((hm _).mp h) fun w hw hwa => hv w ((hm w).mpr hw) _ h hwa]
    · rw [read_writeAll_other ws _ a fun w hw hwa => h ⟨w.2, hwa ▸ hw⟩,
        read_writeAll_other ws' _ a fun w hw hwa => h ⟨w.2, hwa ▸ (hm w).mpr hw⟩]
  · rfl

/-- A list of writes that holds one write for each position of the region, and no other, writes the region. -/
theorem writeAll_writesRegion {g : Geometry} {r : Rect} {pixel : Nat → Nat → Pixel} {ws t : List (Nat × Word32)}
    (hfit : r.x1 ≤ g.tgtW)
    (h : ∀ w, w ∈ ws ↔ ∃ x y, r.contains x y = true ∧ w = (y * g.tgtW + x, (pixel x y).pack)) :
    WritesRegion t (writeAll t ws) g r pixel := by
  constructor
  · intro x y hxy
    refine read_writeAll_mem ws t _ _ ((h _).mpr ⟨x, y, hxy, rfl⟩) fun w hw hwa => ?_
    obtain ⟨x', y', hxy', rfl⟩ := (h w).mp hw
    rw [contains_iff] at hxy hxy'
    obtain ⟨rfl, rfl⟩ := index_inj (by omega) (by omega) hwa
    rfl
  · intro a ha
    refine read_writeAll_other ws t a fun w hw hwa => ?_
    obtain ⟨x, y, hxy, rfl⟩ := (h w).mp hw
    exact ha x y hxy hwa.symm

/-- Such a list writes the region of the active unit's target memory, and leaves the others as they were. -/
theorem writeTargets_writesTarget {s : State} {g : Geometry} {r : Rect} {pixel : Nat → Nat → Pixel}
    {ws : List (Nat × Word32)} (hfit : r.x1 ≤ g.tgtW)
    (h : ∀ w, w ∈ ws ↔ ∃ x y, r.contains x y = true ∧ w = (y * g.tgtW + x, (pixel x y).pack)) :
    WritesTarget s (writeTargets s.targets s.unit.binding ws) g r pixel := by
  refine ⟨?_, fun c hc => by rw [targetOf_writeTargets, if_neg hc]⟩
  rw [targetOf_writeTargets, if_pos rfl]
  exact writeAll_writesRegion hfit h

/-- The writes of a command on the region `r`: one for each position, all inside the target array (R52, R227). -/
structure RegionWrites (u : DecodeUnit) (g : Geometry) (r : Rect) (pixel : Nat → Nat → Pixel)
    (ws : List (Nat × Word32)) : Prop where
  exact : ∀ w, w ∈ ws ↔ ∃ x y, r.contains x y = true ∧ w = (y * g.tgtW + x, (pixel x y).pack)
  bound : ∀ w ∈ ws, w.1 < targetWords u
  single : ∀ w ∈ ws, ∀ w' ∈ ws, w.1 = w'.1 → w.2 = w'.2

theorem RegionWrites.of_exact {u : DecodeUnit} {g : Geometry} {r : Rect} {pixel : Nat → Nat → Pixel}
    {ws : List (Nat × Word32)} (hw : r.x1 ≤ g.tgtW) (hh : r.y1 ≤ g.tgtH) (ht : targetWords u = g.tgtW * g.tgtH)
    (h : ∀ w, w ∈ ws ↔ ∃ x y, r.contains x y = true ∧ w = (y * g.tgtW + x, (pixel x y).pack)) :
    RegionWrites u g r pixel ws where
  exact := h
  bound := fun w hw' => by
    obtain ⟨x, y, hxy, rfl⟩ := (h w).mp hw'
    rw [contains_iff] at hxy
    rw [ht]
    exact index_lt (by omega) (by omega)
  single := fun w hw1 w' hw2 hww => by
    obtain ⟨x, y, hxy, rfl⟩ := (h w).mp hw1
    obtain ⟨x', y', hxy', rfl⟩ := (h w').mp hw2
    rw [contains_iff] at hxy hxy'
    obtain ⟨rfl, rfl⟩ := index_inj (by omega) (by omega) hww
    rfl

/-- Two units that agree on everything but the cursor and the pixel writes still to be made. -/
def SameInputs (u v : DecodeUnit) : Prop := ∃ c ws, v = { u with cursor := c, writes := ws }

theorem SameInputs.refl (u : DecodeUnit) : SameInputs u u := ⟨u.cursor, u.writes, rfl⟩

theorem SameInputs.trans {u v w : DecodeUnit} (h : SameInputs u v) (h' : SameInputs v w) : SameInputs u w := by
  obtain ⟨c, t, rfl⟩ := h
  obtain ⟨c', t', rfl⟩ := h'
  exact ⟨c', t', rfl⟩

theorem SameInputs.withWrites (u : DecodeUnit) (ws : List (Nat × Word32)) : SameInputs u (u.withWrites ws) :=
  ⟨u.cursor, ws, rfl⟩

theorem SameInputs.withCursor (u : DecodeUnit) (c : Cursor) : SameInputs u (u.withCursor c) := ⟨some c, u.writes, rfl⟩

theorem SameInputs.targetWords {u v : DecodeUnit} (h : SameInputs u v) : targetWords v = targetWords u := by
  obtain ⟨c, t, rfl⟩ := h; rfl

theorem SameInputs.payloadBytes {u v : DecodeUnit} (h : SameInputs u v) : payloadBytes v = payloadBytes u := by
  obtain ⟨c, t, rfl⟩ := h; rfl

theorem SameInputs.payloadSlice {u v : DecodeUnit} (h : SameInputs u v) (a n : Nat) :
    payloadSlice v a n = payloadSlice u a n := by
  obtain ⟨c, t, rfl⟩ := h; rfl

/-- The end of a command forgets the cursor and the writes. -/
theorem SameInputs.complete {u v : DecodeUnit} (h : SameInputs u v) (r : Option Bool) (k : Completion) :
    v.complete r k = u.complete r k := by
  obtain ⟨c, t, rfl⟩ := h; rfl

/-- What is left of a unit once its command's effects are decided: the cursor and the writes. -/
theorem SameInputs.pend_eq {u v : DecodeUnit} (h : SameInputs u v) (e : Option (Word32 × Bitmap)) (k : Completion) :
    ∃ c, v.pend e k = { u with cursor := c, writes := v.writes, insertion := e, completion := some k } := by
  obtain ⟨c, ws, rfl⟩ := h; exact ⟨c, rfl⟩

/-- What a loop of writes does, said once: where every turn succeeds with its own writes, so does the loop. -/
theorem foldlM_writes {β : Type} (f : DecodeUnit → β → Except Stop DecodeUnit) (ops : β → List (Nat × Word32))
    (l : List β) (u0 : DecodeUnit)
    (hf : ∀ b ∈ l, ∀ u, SameInputs u0 u → ∃ v, f u b = .ok v ∧ SameInputs u v ∧ v.writes = u.writes ++ ops b) :
    ∀ u, SameInputs u0 u →
      ∃ v, l.foldlM f u = .ok v ∧ SameInputs u v ∧ v.writes = u.writes ++ l.flatMap ops := by
  induction l with
  | nil => intro u _; exact ⟨u, rfl, SameInputs.refl u, by simp⟩
  | cons b rest ih =>
    intro u hu
    obtain ⟨v, hv, huv, htv⟩ := hf b List.mem_cons_self u hu
    obtain ⟨w, hw, hvw, htw⟩ := ih (fun b' hb' => hf b' (List.mem_cons_of_mem _ hb')) v (hu.trans huv)
    refine ⟨w, ?_, huv.trans hvw, ?_⟩
    · rw [List.foldlM_cons, hv]; exact hw
    · rw [htw, htv, List.flatMap_cons, List.append_assoc]

end Sys2Proof.Machine
end

