-- ==== Sys2Proof/Laws/Entry.lean ====
section
/-! SUPPORT. What the DECODE entry can do, said once (43_sequencer.md R220 to R224). -/

namespace Sys2Proof.Machine

/-- The halves of a format word whose upper half is 0. -/
theorem bits_named {n : Nat} (h : n < 2 ^ 32) :
    bits (BitVec.ofNat 64 n) 63 32 = 0 ∧ bits (BitVec.ofNat 64 n) 31 0 = n := by
  simp only [bits, BitVec.toNat_ofNat, Nat.shiftRight_eq_div_pow]
  omega

/-- `FMT_HI ≠ 0` is a format word of `2^32` or more. -/
theorem bits_high (fmt : Word64) : bits fmt 63 32 ≠ 0 ↔ 2 ^ 32 ≤ fmt.toNat := by
  simp only [bits, Nat.shiftRight_eq_div_pow]
  have := fmt.isLt
  omega

/-- The class of a named code (R221). -/
theorem classOf_named (p : Config.Params) {n : Nat} (h : n < 2 ^ 32) :
    classOf p (BitVec.ofNat 64 n) =
      if isKnown p n = false then .unknown
      else
        match datapathOf n with
        | some (.etc f) => if p.etcRouted then .etc f else .fallback
        | some c => c
        | none => .fallback := by
  rw [classOf, (bits_named h).1, (bits_named h).2, if_neg (by simp)] <;>
  · rcases datapathOf n with _ | c
    · rfl
    · cases c <;> rfl

/-- The class of a custom format (R221). -/
theorem classOf_custom (p : Config.Params) {fmt : Word64} (h : 2 ^ 32 ≤ fmt.toNat) : classOf p fmt = .fallback := by
  simp only [classOf, if_pos ((bits_high fmt).mpr h)]

/-- The registers the entry reads give the geometry `g` (R220). -/
theorem readGeometry_ok_iff {u : DecodeUnit} {g : Geometry} :
    readGeometry u = .ok g ↔
      u.texW.map BitVec.toNat = some g.texW ∧ u.texH.map BitVec.toNat = some g.texH ∧
      u.regX.map BitVec.toInt = some g.regX ∧ u.regY.map BitVec.toInt = some g.regY ∧
      u.regW.map BitVec.toInt = some g.regW ∧ u.regH.map BitVec.toInt = some g.regH ∧
      u.tgtW.map BitVec.toNat = some g.tgtW ∧ u.tgtH.map BitVec.toNat = some g.tgtH := by
  obtain ⟨a, b, c, d, e, f, k, l⟩ := g
  simp only [readGeometry, readConfig, DecodeUnit.config]
  rcases u.texW with _ | texW
  · simp [bind, Except.bind]
  rcases u.texH with _ | texH
  · simp [bind, Except.bind]
  rcases u.regX with _ | regX
  · simp [bind, Except.bind]
  rcases u.regY with _ | regY
  · simp [bind, Except.bind]
  rcases u.regW with _ | regW
  · simp [bind, Except.bind]
  rcases u.regH with _ | regH
  · simp [bind, Except.bind]
  rcases u.tgtW with _ | tgtW
  · simp [bind, Except.bind]
  rcases u.tgtH with _ | tgtH
  · simp [bind, Except.bind]
  simp [bind, Except.bind, pure, Except.pure]

/-- The reads raise for the first unwritten register of the list (R257, R259). -/
theorem readGeometry_unset {u : DecodeUnit} {pre post : List ConfigReg} {r : ConfigReg}
    (hl : entryRegisters = pre ++ r :: post) (hpre : ∀ q ∈ pre, u.config q ≠ none) (hr : u.config r = none) :
    readGeometry u = .error (.raise (.unsetConfig (.config r))) := by
  have hw : ∀ q ∈ pre, ∃ v, readConfig u q = .ok v := fun q hq => by
    obtain ⟨v, hv⟩ := Option.ne_none_iff_exists'.mp (hpre q hq)
    exact ⟨v, readConfig_some hv⟩
  have hn := readConfig_none hr
  have hlen : pre.length < 8 := by have := congrArg List.length hl; simp [entryRegisters] at this; omega
  match pre, hlen with
  | [], _ =>
    simp [entryRegisters] at hl
    obtain ⟨rfl, rfl⟩ := hl
    simp [readGeometry, hn, bind, Except.bind]
  | [a], _ =>
    simp [entryRegisters] at hl
    obtain ⟨rfl, rfl, rfl⟩ := hl
    obtain ⟨v1, h1⟩ := hw .texW (by simp)
    simp [readGeometry, h1, hn, bind, Except.bind]
  | [a, b], _ =>
    simp [entryRegisters] at hl
    obtain ⟨rfl, rfl, rfl, rfl⟩ := hl
    obtain ⟨v1, h1⟩ := hw .texW (by simp)
    obtain ⟨v2, h2⟩ := hw .texH (by simp)
    simp [readGeometry, h1, h2, hn, bind, Except.bind]
  | [a, b, c], _ =>
    simp [entryRegisters] at hl
    obtain ⟨rfl, rfl, rfl, rfl, rfl⟩ := hl
    obtain ⟨v1, h1⟩ := hw .texW (by simp)
    obtain ⟨v2, h2⟩ := hw .texH (by simp)
    obtain ⟨v3, h3⟩ := hw .regX (by simp)
    simp [readGeometry, h1, h2, h3, hn, bind, Except.bind]
  | [a, b, c, d], _ =>
    simp [entryRegisters] at hl
    obtain ⟨rfl, rfl, rfl, rfl, rfl, rfl⟩ := hl
    obtain ⟨v1, h1⟩ := hw .texW (by simp)
    obtain ⟨v2, h2⟩ := hw .texH (by simp)
    obtain ⟨v3, h3⟩ := hw .regX (by simp)
    obtain ⟨v4, h4⟩ := hw .regY (by simp)
    simp [readGeometry, h1, h2, h3, h4, hn, bind, Except.bind]
  | [a, b, c, d, e], _ =>
    simp [entryRegisters] at hl
    obtain ⟨rfl, rfl, rfl, rfl, rfl, rfl, rfl⟩ := hl
    obtain ⟨v1, h1⟩ := hw .texW (by simp)
    obtain ⟨v2, h2⟩ := hw .texH (by simp)
    obtain ⟨v3, h3⟩ := hw .regX (by simp)
    obtain ⟨v4, h4⟩ := hw .regY (by simp)
    obtain ⟨v5, h5⟩ := hw .regW (by simp)
    simp [readGeometry, h1, h2, h3, h4, h5, hn, bind, Except.bind]
  | [a, b, c, d, e, f], _ =>
    simp [entryRegisters] at hl
    obtain ⟨rfl, rfl, rfl, rfl, rfl, rfl, rfl, rfl⟩ := hl
    obtain ⟨v1, h1⟩ := hw .texW (by simp)
    obtain ⟨v2, h2⟩ := hw .texH (by simp)
    obtain ⟨v3, h3⟩ := hw .regX (by simp)
    obtain ⟨v4, h4⟩ := hw .regY (by simp)
    obtain ⟨v5, h5⟩ := hw .regW (by simp)
    obtain ⟨v6, h6⟩ := hw .regH (by simp)
    simp [readGeometry, h1, h2, h3, h4, h5, h6, hn, bind, Except.bind]
  | [a, b, c, d, e, f, k], _ =>
    simp [entryRegisters] at hl
    obtain ⟨rfl, rfl, rfl, rfl, rfl, rfl, rfl, rfl, rfl⟩ := hl
    obtain ⟨v1, h1⟩ := hw .texW (by simp)
    obtain ⟨v2, h2⟩ := hw .texH (by simp)
    obtain ⟨v3, h3⟩ := hw .regX (by simp)
    obtain ⟨v4, h4⟩ := hw .regY (by simp)
    obtain ⟨v5, h5⟩ := hw .regW (by simp)
    obtain ⟨v6, h6⟩ := hw .regH (by simp)
    obtain ⟨v7, h7⟩ := hw .tgtW (by simp)
    simp [readGeometry, h1, h2, h3, h4, h5, h6, h7, hn, bind, Except.bind]

/-- The clipped region, where it is not empty (R223, R224). -/
theorem clip_eq_some_iff {g : Geometry} {r : Rect} :
    clip g = some r ↔
      (r.x0 : Int) = max g.regX 0 ∧ (r.x1 : Int) = min (g.regX + g.regW) g.texW ∧
      (r.y0 : Int) = max g.regY 0 ∧ (r.y1 : Int) = min (g.regY + g.regH) g.texH ∧ r.x0 < r.x1 ∧ r.y0 < r.y1 := by
  obtain ⟨x0, y0, x1, y1⟩ := r
  simp only [clip]
  split
  · simp only [reduceCtorEq, false_iff]
    omega
  · simp only [Option.some.injEq, Rect.mk.injEq]
    omega

/-- The entry reads nothing but `CTRL` where an argument is null (R222). -/
theorem decodeEntry_null (p : Config.Params) (fmt : Word64) {u : DecodeUnit} {c : Word32} (hc : u.ctrl = some c)
    (h : argumentsPresent c = false) : decodeEntry p fmt u = .ok .nullArguments := by
  have h' : u.config .ctrl = some c := hc
  simp [decodeEntry, readConfig_some h', h, bind, Except.bind, pure, Except.pure]

theorem decodeEntry_ctrl_unset (p : Config.Params) (fmt : Word64) {u : DecodeUnit} (hc : u.ctrl = none) :
    decodeEntry p fmt u = .error (.raise (.unsetConfig (.config .ctrl))) := by
  have h' : u.config .ctrl = none := hc
  simp [decodeEntry, readConfig_none h', bind, Except.bind]

theorem decodeEntry_fmt_unset (p : Config.Params) (fmt : Word64) {u : DecodeUnit} {c : Word32} (hc : u.ctrl = some c)
    (h : argumentsPresent c = true) (hf : u.fmt = none) :
    decodeEntry p fmt u = .error (.raise (.unsetConfig .fmt)) := by
  have h' : u.config .ctrl = some c := hc
  simp [decodeEntry, readConfig_some h', h, readFmt_none hf, bind, Except.bind]

theorem decodeEntry_unknown (p : Config.Params) (fmt : Word64) {u : DecodeUnit} {c : Word32} (hc : u.ctrl = some c)
    (h : argumentsPresent c = true) (hf : u.fmt.isSome = true) (hk : classOf p fmt = .unknown) :
    decodeEntry p fmt u = .error (.raise .unsupportedFormat) := by
  have h' : u.config .ctrl = some c := hc
  simp [decodeEntry, readConfig_some h', h, readFmt_some hf, hk, bind, Except.bind]

theorem decodeEntry_region (p : Config.Params) (fmt : Word64) {u : DecodeUnit} {c : Word32} (hc : u.ctrl = some c)
    (h : argumentsPresent c = true) (hf : u.fmt.isSome = true) (hk : classOf p fmt ≠ .unknown) :
    decodeEntry p fmt u = entryRegion u (classOf p fmt) := by
  have h' : u.config .ctrl = some c := hc
  simp only [decodeEntry, readConfig_some h', h, readFmt_some hf, bind, Except.bind]
  cases hcl : classOf p fmt <;> simp_all

theorem entryRegion_error {u : DecodeUnit} {e : Stop} (c : FormatClass) (h : readGeometry u = .error e) :
    entryRegion u c = .error e := by simp [entryRegion, h, bind, Except.bind]

theorem entryRegion_eq {u : DecodeUnit} {g : Geometry} (c : FormatClass) (h : readGeometry u = .ok g) :
    entryRegion u c =
      match clip g with
      | none => .ok (.emptyRegion c)
      | some r => if g.tgtW < r.x1 ∨ g.tgtH < r.y1 then .error (.raise .targetOverrun) else .ok (.run c g r) := by
  simp only [entryRegion, h, bind, Except.bind, pure, Except.pure] <;> cases clip g <;> rfl

/-- Where the region is ready the entry reaches the family procedure. -/
theorem decodeEntry_ready (p : Config.Params) (fmt : Word64) {u : DecodeUnit} {g : Geometry} {r : Rect}
    (h : RegionReady u g r) (hk : classOf p fmt ≠ .unknown) :
    decodeEntry p fmt u = .ok (.run (classOf p fmt) g r) := by
  obtain ⟨c, hc, h0, h1⟩ := h.present
  rw [decodeEntry_region p fmt hc ((argumentsPresent_iff c).mpr ⟨h0, h1⟩) h.fmt hk,
    entryRegion_eq _ (readGeometry_ok_iff.mpr
      ⟨h.texW, h.texH, h.regX, h.regY, h.regW, h.regH, h.tgtW, h.tgtH⟩),
    clip_eq_some_iff.mpr ⟨h.left, h.right, h.top, h.bottom, h.wide, h.tall⟩]
  have := h.fitsW
  have := h.fitsH
  simp only
  rw [if_neg (by omega)]

/-- What the entry can answer, said once. -/
theorem decodeEntry_cases (p : Config.Params) (fmt : Word64) (u : DecodeUnit) :
    (∃ e, decodeEntry p fmt u = .error (.raise e) ∧ legalOutcome e.status e.info = true) ∨
    (decodeEntry p fmt u = .ok .nullArguments) ∨
    (decodeEntry p fmt u = .ok (.emptyRegion (classOf p fmt)) ∧ classOf p fmt ≠ .unknown) ∨
    (∃ g r, decodeEntry p fmt u = .ok (.run (classOf p fmt) g r) ∧ RegionReady u g r ∧ classOf p fmt ≠ .unknown) := by
  rcases hc : u.ctrl with _ | c
  · exact .inl ⟨_, decodeEntry_ctrl_unset p fmt hc, rfl⟩
  rcases ha : argumentsPresent c with _ | _
  · exact .inr (.inl (decodeEntry_null p fmt hc ha))
  rcases hf : u.fmt with _ | f
  · exact .inl ⟨_, decodeEntry_fmt_unset p fmt hc ha hf, rfl⟩
  have hf' : u.fmt.isSome = true := by simp [hf]
  by_cases hk : classOf p fmt = .unknown
  · exact .inl ⟨_, decodeEntry_unknown p fmt hc ha hf' hk, rfl⟩
  rw [decodeEntry_region p fmt hc ha hf' hk]
  rcases hg : readGeometry u with e | g
  · rw [entryRegion_error _ hg]
    refine .inl ?_
    simp only [readGeometry, readConfig] at hg
    cases h1 : u.config .texW <;> simp [h1, bind, Except.bind] at hg
    · exact ⟨_, by rw [← hg], rfl⟩
    cases h2 : u.config .texH <;> simp [h2] at hg
    · exact ⟨_, by rw [← hg], rfl⟩
    cases h3 : u.config .regX <;> simp [h3] at hg
    · exact ⟨_, by rw [← hg], rfl⟩
    cases h4 : u.config .regY <;> simp [h4] at hg
    · exact ⟨_, by rw [← hg], rfl⟩
    cases h5 : u.config .regW <;> simp [h5] at hg
    · exact ⟨_, by rw [← hg], rfl⟩
    cases h6 : u.config .regH <;> simp [h6] at hg
    · exact ⟨_, by rw [← hg], rfl⟩
    cases h7 : u.config .tgtW <;> simp [h7] at hg
    · exact ⟨_, by rw [← hg], rfl⟩
    cases h8 : u.config .tgtH <;> simp [h8, pure, Except.pure] at hg
    · exact ⟨_, by rw [← hg], rfl⟩
  · rw [entryRegion_eq _ hg]
    rcases hcl : clip g with _ | r
    · exact .inr (.inr (.inl ⟨rfl, hk⟩))
    · simp only
      split
      · exact .inl ⟨_, rfl, rfl⟩
      · next hb =>
        refine .inr (.inr (.inr ⟨g, r, rfl, ?_, hk⟩))
        obtain ⟨a1, a2, a3, a4, a5, a6, a7, a8⟩ := readGeometry_ok_iff.mp hg
        obtain ⟨b1, b2, b3, b4, b5, b6⟩ := clip_eq_some_iff.mp hcl
        exact
          { present := ⟨c, hc, ((argumentsPresent_iff c).mp ha).1, ((argumentsPresent_iff c).mp ha).2⟩
            fmt := hf', texW := a1, texH := a2, regX := a3, regY := a4, regW := a5, regH := a6, tgtW := a7, tgtH := a8
            left := b1, right := b2, top := b3, bottom := b4, wide := b5, tall := b6
            fitsW := by omega, fitsH := by omega }

/-- The region of a ready unit lies in the texture and in the target, and the target has `TGT_W · TGT_H` words. -/
theorem RegionReady.bounds {u : DecodeUnit} {g : Geometry} {r : Rect} (h : RegionReady u g r) :
    r.x1 ≤ g.texW ∧ r.y1 ≤ g.texH ∧ targetWords u = g.tgtW * g.tgtH := by
  have h1 := h.right
  have h2 := h.bottom
  have hw := h.tgtW
  have hh := h.tgtH
  refine ⟨by omega, by omega, ?_⟩
  cases htw : u.tgtW <;> cases hth : u.tgtH <;> simp_all [targetWords]

end Sys2Proof.Machine
end

