-- ==== Sys2Proof/Laws/Walk.lean ====
section
/-! SUPPORT. What the block walk, the Fallback filler and the PVRTC region copy write, said once (43_sequencer.md
R226, R227, R231; 42_pvrtc.md R198). -/

namespace Sys2Proof.Machine

/-- The write of one pixel of a block, where it lies in the region. -/
def pixelWrites (g : Geometry) (r : Rect) (tile : List Pixel) (b p : Nat × Nat) : List (Nat × Word32) :=
  if r.contains (4 * b.1 + p.1) (4 * b.2 + p.2) then
    [((4 * b.2 + p.2) * g.tgtW + (4 * b.1 + p.1), (tileAt tile (4 * p.2 + p.1)).pack)]
  else []

theorem walkPixel_ok {g : Geometry} {r : Rect} {u : DecodeUnit} (tile : List Pixel) (b p : Nat × Nat)
    (hw : r.x1 ≤ g.tgtW) (hh : r.y1 ≤ g.tgtH) (ht : targetWords u = g.tgtW * g.tgtH) :
    ∃ v, walkPixel g r tile b.1 b.2 u p = .ok v ∧ SameInputs u v ∧
      v.writes = u.writes ++ pixelWrites g r tile b p := by
  simp only [walkPixel, pixelWrites]
  split
  · next hc =>
    rw [contains_iff] at hc
    exact ⟨_, memWrite_ok _ (ht ▸ index_lt (by omega) (by omega)), SameInputs.withWrites _ _, rfl⟩
  · exact ⟨u, rfl, SameInputs.refl u, by simp⟩

/-- The writes of one block of the walk. -/
def blockWrites (u : DecodeUnit) (blockBytes : Nat) (tile : List Byte → List Pixel) (g : Geometry) (r : Rect)
    (b : Nat × Nat) : List (Nat × Word32) :=
  (raster 0 0 4 4).flatMap
    (pixelWrites g r (tile (payloadSlice u ((b.2 * ceilDiv g.texW 4 + b.1) * blockBytes) blockBytes)) b)

theorem walkBlock_ok {g : Geometry} {r : Rect} {u0 u : DecodeUnit} (blockBytes : Nat) (tile : List Byte → List Pixel)
    (b : Nat × Nat) (hw : r.x1 ≤ g.tgtW) (hh : r.y1 ≤ g.tgtH) (ht : targetWords u0 = g.tgtW * g.tgtH)
    (hu : SameInputs u0 u)
    (hp : (b.2 * ceilDiv g.texW 4 + b.1) * blockBytes + blockBytes ≤ payloadBytes u0) :
    ∃ v, walkBlock blockBytes tile g r u b = .ok v ∧ SameInputs u v ∧
      v.writes = u.writes ++ blockWrites u0 blockBytes tile g r b := by
  have hread : memRead u ((b.2 * ceilDiv g.texW Config.tileSize + b.1) * blockBytes) blockBytes =
      .ok (payloadSlice u0 ((b.2 * ceilDiv g.texW 4 + b.1) * blockBytes) blockBytes) := by
    rw [← hu.payloadSlice]
    exact memRead_ok (hu.payloadBytes ▸ hp)
  simp only [walkBlock, hread, bind, Except.bind]
  obtain ⟨v, hv, hs, htv⟩ := foldlM_writes
    (walkPixel g r (tile (payloadSlice u0 ((b.2 * ceilDiv g.texW 4 + b.1) * blockBytes) blockBytes)) b.1 b.2)
    (pixelWrites g r (tile (payloadSlice u0 ((b.2 * ceilDiv g.texW 4 + b.1) * blockBytes) blockBytes)) b)
    (raster 0 0 4 4) (u.withCursor (.block b.1 b.2))
    (fun p _ w hw' => walkPixel_ok _ b p hw hh (by rw [hw'.targetWords]; exact hu.targetWords.trans ht))
    (u.withCursor (.block b.1 b.2)) (SameInputs.refl _)
  exact ⟨v, hv, (SameInputs.withCursor u _).trans hs, htv⟩

/-- Every block of the aligned rectangle ends at or before `need` (R228). -/
theorem block_end_le {g : Geometry} {r : Rect} {b : Nat × Nat} (blockBytes : Nat)
    (hb : b ∈ raster (alignedBlocks r).x0 (alignedBlocks r).y0 (alignedBlocks r).x1 (alignedBlocks r).y1) :
    (b.2 * ceilDiv g.texW 4 + b.1) * blockBytes + blockBytes ≤ blocksNeed blockBytes g r := by
  rw [mem_raster] at hb
  simp only [blocksNeed, Config.tileSize]
  have h1 : b.2 * ceilDiv g.texW 4 ≤ ((alignedBlocks r).y1 - 1) * ceilDiv g.texW 4 :=
    Nat.mul_le_mul_right _ (by omega)
  calc (b.2 * ceilDiv g.texW 4 + b.1) * blockBytes + blockBytes
      = (b.2 * ceilDiv g.texW 4 + b.1 + 1) * blockBytes := by ring
    _ ≤ _ := Nat.mul_le_mul_right _ (by omega)

/-- `WALK` writes the clipped region, each pixel from the block that covers it, and nothing else (R226, R227). -/
theorem walk_ok {g : Geometry} {r : Rect} {u : DecodeUnit} (blockBytes : Nat) (tile : List Byte → List Pixel)
    (hw : r.x1 ≤ g.tgtW) (hh : r.y1 ≤ g.tgtH) (ht : targetWords u = g.tgtW * g.tgtH)
    (hp : blocksNeed blockBytes g r ≤ payloadBytes u) :
    ∃ v ws, walk blockBytes tile g r u = .ok v ∧ SameInputs u v ∧ v.writes = u.writes ++ ws ∧
      RegionWrites u g r (fun x y => tileAt (tile (blockBytesAt u g.texW blockBytes x y)) (4 * (y % 4) + x % 4)) ws := by
  obtain ⟨v, hv, hs, htv⟩ := foldlM_writes (walkBlock blockBytes tile g r) (blockWrites u blockBytes tile g r)
    (raster (alignedBlocks r).x0 (alignedBlocks r).y0 (alignedBlocks r).x1 (alignedBlocks r).y1) u
    (fun b hb w hw' => walkBlock_ok blockBytes tile b hw hh ht hw' ((block_end_le blockBytes hb).trans hp))
    u (SameInputs.refl u)
  refine ⟨v, _, hv, hs, htv, RegionWrites.of_exact hw hh ht fun w => ?_⟩
  simp only [List.mem_flatMap, mem_raster, blockWrites, pixelWrites]
  constructor
  · rintro ⟨b, hb, p, hp4, hw⟩
    split at hw
    · next hc =>
      simp only [List.mem_singleton] at hw
      refine ⟨_, _, hc, ?_⟩
      rw [hw, blockBytesAt, show (4 * b.2 + p.2) / 4 = b.2 by omega, show (4 * b.1 + p.1) / 4 = b.1 by omega,
        show (4 * b.2 + p.2) % 4 = p.2 by omega, show (4 * b.1 + p.1) % 4 = p.1 by omega]
      rfl
    · cases hw
  · rintro ⟨x, y, hc, rfl⟩
    have hr := (contains_iff r x y).mp hc
    refine ⟨(x / 4, y / 4), ?_, (x % 4, y % 4), by simp only; omega, ?_⟩
    · simp only [alignedBlocks, Config.tileSize, ceilDiv]
      omega
    · have hx : 4 * (x / 4) + x % 4 = x := by omega
      have hy : 4 * (y / 4) + y % 4 = y := by omega
      simp only [hx, hy, hc, if_pos, List.mem_singleton]
      rfl

/-- The Fallback filler writes transparent black to the clipped region, and nothing else (R231). -/
theorem fill_ok {g : Geometry} {r : Rect} {u : DecodeUnit} (hw : r.x1 ≤ g.tgtW) (hh : r.y1 ≤ g.tgtH)
    (ht : targetWords u = g.tgtW * g.tgtH) :
    ∃ v ws, (raster r.x0 r.y0 r.x1 r.y1).foldlM (fillPixel g) u = .ok v ∧ SameInputs u v ∧ v.writes = u.writes ++ ws ∧
      RegionWrites u g r (fun _ _ => transparentBlack) ws := by
  obtain ⟨v, hv, hs, htv⟩ := foldlM_writes (fillPixel g)
    (fun p : Nat × Nat => [(p.2 * g.tgtW + p.1, transparentBlack.pack)]) (raster r.x0 r.y0 r.x1 r.y1) u
    (fun p hp w hw' => by
      rw [mem_raster] at hp
      exact ⟨_, memWrite_ok _ (by rw [hw'.targetWords, ht]; exact index_lt (by omega) (by omega)),
        SameInputs.withWrites _ _, rfl⟩)
    u (SameInputs.refl u)
  refine ⟨v, _, hv, hs, htv, RegionWrites.of_exact hw hh ht fun w => ?_⟩
  simp only [List.mem_flatMap, List.mem_singleton, mem_raster, contains_iff]
  constructor
  · rintro ⟨p, hp, rfl⟩; exact ⟨p.1, p.2, hp, rfl⟩
  · rintro ⟨x, y, hxy, rfl⟩; exact ⟨(x, y), hxy, rfl⟩

/-- The region copy writes the clipped region from a bitmap that covers it, and nothing else (R198). -/
theorem copyRegion_ok {g : Geometry} {r : Rect} {u : DecodeUnit} {bm : Bitmap} {pixel : Nat → Nat → Pixel}
    (hw : r.x1 ≤ g.tgtW) (hh : r.y1 ≤ g.tgtH) (ht : targetWords u = g.tgtW * g.tgtH)
    (hbm : ∀ x y, r.contains x y = true → bm.pixel x y = some (pixel x y)) :
    ∃ v ws, copyRegion g r bm u = .ok v ∧ SameInputs u v ∧ v.writes = u.writes ++ ws ∧ RegionWrites u g r pixel ws := by
  obtain ⟨v, hv, hs, htv⟩ := foldlM_writes (copyPixel g bm)
    (fun p : Nat × Nat => [(p.2 * g.tgtW + p.1, (pixel p.1 p.2).pack)]) (raster r.x0 r.y0 r.x1 r.y1) u
    (fun p hp w hw' => by
      rw [mem_raster] at hp
      simp only [copyPixel, hbm p.1 p.2 ((contains_iff r p.1 p.2).mpr hp)]
      exact ⟨_, memWrite_ok _ (by rw [hw'.targetWords, ht]; exact index_lt (by omega) (by omega)),
        SameInputs.withWrites _ _, rfl⟩)
    u (SameInputs.refl u)
  refine ⟨v, _, hv, hs, htv, RegionWrites.of_exact hw hh ht fun w => ?_⟩
  simp only [List.mem_flatMap, List.mem_singleton, mem_raster, contains_iff]
  constructor
  · rintro ⟨p, hp, rfl⟩; exact ⟨p.1, p.2, hp, rfl⟩
  · rintro ⟨x, y, hxy, rfl⟩; exact ⟨(x, y), hxy, rfl⟩

/-- A turn of the region copy writes a word or refuses; it never faults inside the bounds. -/
theorem copyPixel_cases {g : Geometry} {u : DecodeUnit} {bm : Bitmap} {p : Nat × Nat}
    (h : p.2 * g.tgtW + p.1 < targetWords u) :
    (∃ px, bm.pixel p.1 p.2 = some px ∧
      copyPixel g bm u p = .ok (u.withWrites (u.writes ++ [(p.2 * g.tgtW + p.1, px.pack)]))) ∨
    (bm.pixel p.1 p.2 = none ∧ copyPixel g bm u p = .error (.refuse .bitmapTooSmall)) := by
  rcases hb : bm.pixel p.1 p.2 with _ | px
  · exact .inr ⟨rfl, by simp [copyPixel, hb]⟩
  · exact .inl ⟨px, rfl, by simp only [copyPixel, hb]; exact memWrite_ok px h⟩

/-- A region copy succeeds, or refuses because the bitmap lacks a pixel of the region (R287). -/
theorem copyRegion_cases {g : Geometry} {r : Rect} {u : DecodeUnit} {bm : Bitmap} (hw : r.x1 ≤ g.tgtW)
    (hh : r.y1 ≤ g.tgtH) (ht : targetWords u = g.tgtW * g.tgtH) :
    (∃ pixel : Nat → Nat → Pixel, ∀ x y, r.contains x y = true → bm.pixel x y = some (pixel x y)) ∨
    (copyRegion g r bm u = .error (.refuse .bitmapTooSmall) ∧
      ∃ x y, r.contains x y = true ∧ bm.pixel x y = none) := by
  by_cases hall : ∀ x y, r.contains x y = true → bm.pixel x y ≠ none
  · refine .inl ⟨fun x y => (bm.pixel x y).getD transparentBlack, fun x y hxy => ?_⟩
    obtain ⟨px, hpx⟩ := Option.ne_none_iff_exists'.mp (hall x y hxy)
    simp [hpx]
  · push Not at hall
    obtain ⟨x, y, hxy, hn⟩ := hall
    refine .inr ⟨?_, x, y, hxy, hn⟩
    have key : ∀ (l : List (Nat × Nat)) (v : DecodeUnit), SameInputs u v → (∃ p ∈ l, bm.pixel p.1 p.2 = none) →
        (∀ p ∈ l, p.1 < g.tgtW ∧ p.2 < g.tgtH) →
        l.foldlM (copyPixel g bm) v = .error (.refuse .bitmapTooSmall) := by
      intro l
      induction l with
      | nil => rintro v - ⟨p, hp, -⟩; cases hp
      | cons q rest ih =>
        rintro v hv ⟨p, hp, hpn⟩ hl
        have hq := hl q List.mem_cons_self
        rw [List.foldlM_cons]
        rcases copyPixel_cases (bm := bm) (p := q) (u := v) (g := g)
          (by rw [hv.targetWords, ht]; exact index_lt hq.1 hq.2) with ⟨px, hpx, hc⟩ | ⟨-, hc⟩
        · rw [hc]
          refine ih _ (hv.trans (SameInputs.withWrites _ _)) ?_ fun p' hp' => hl p' (List.mem_cons_of_mem _ hp')
          rcases List.mem_cons.mp hp with rfl | hp
          · rw [hpx] at hpn; cases hpn
          · exact ⟨p, hp, hpn⟩
        · rw [hc]; rfl
    refine key _ u (SameInputs.refl u) ⟨(x, y), mem_raster.mpr ((contains_iff r x y).mp hxy), hn⟩ fun p hp => ?_
    rw [mem_raster] at hp
    omega

end Sys2Proof.Machine
end

