-- ==== Sys2Proof/Laws/Image.lean ====
section
/-! SUPPORT. What the PVRTC image pass computes, said once (42_pvrtc.md R194 to R196, R208). -/

namespace Sys2Proof.Machine

/-- One axis of R196: tile position `t` of the quad at `c − 1` covers a position of the padded image, whose own quad and
tile position are these. -/
theorem axis_position {ww n c t : Nat} (hww : ww = 4 ∨ ww = 8) (hc : c < n) (ht : t < ww) :
    let x := ((((c : Int) - 1) * ww + (ww / 2 : Nat) + t) % ((n * ww : Nat) : Int)).toNat
    x < n * ww ∧ (x + n * ww - ww / 2) / ww % n = (((c : Int) - 1) % (n : Int)).toNat ∧
      ((x + n * ww - ww / 2) / ww + 1) % n = ((((c : Int) - 1) + 1) % (n : Int)).toNat ∧
      (x + n * ww - ww / 2) % ww = t := by
  intro x
  have hn : 1 ≤ n := by omega
  have hwrap : (((c : Int) - 1) + 1) % (n : Int) = (c : Int) := by
    rw [Int.emod_eq_of_lt] <;> omega
  rcases Nat.eq_zero_or_pos c with rfl | hpos
  · have hlast : ((((0 : Nat) : Int) - 1) % (n : Int)).toNat = n - 1 := by
      rw [show (((0 : Nat) : Int) - 1) = ((n : Int) - 1) + (n : Int) * (-1) by ring, Int.add_mul_emod_self_left,
        Int.emod_eq_of_lt] <;> omega
    rw [hlast, hwrap]
    by_cases hhalf : ww / 2 ≤ t
    · have hx : x = t - ww / 2 := by
        simp only [x]
        rw [Int.emod_eq_of_lt] <;> rcases hww with rfl | rfl <;> push_cast <;> omega
      have hq : (x + n * ww - ww / 2) / ww = n - 1 := by rcases hww with rfl | rfl <;> omega
      rw [hq, Nat.mod_eq_of_lt (by omega), show n - 1 + 1 = n by omega, Nat.mod_self]
      rcases hww with rfl | rfl <;> omega
    · have hx : x = n * ww + t - ww / 2 := by
        simp only [x]
        rw [← Int.add_emod_right, Int.emod_eq_of_lt] <;> rcases hww with rfl | rfl <;> push_cast <;> omega
      have hq : (x + n * ww - ww / 2) / ww = n - 1 + n := by rcases hww with rfl | rfl <;> omega
      rw [hq, Nat.add_mod_right, Nat.mod_eq_of_lt (by omega), show n - 1 + n + 1 = n + n by omega, Nat.add_mod_right,
        Nat.mod_self]
      rcases hww with rfl | rfl <;> omega
  · have hx : x = (c - 1) * ww + ww / 2 + t := by
      obtain ⟨d, rfl⟩ : ∃ d, c = d + 1 := ⟨c - 1, by omega⟩
      simp only [x]
      rw [Int.emod_eq_of_lt] <;> rcases hww with rfl | rfl <;> push_cast <;> omega
    have hprev : (((c : Int) - 1) % (n : Int)).toNat = c - 1 := by
      rw [Int.emod_eq_of_lt] <;> omega
    have hq : (x + n * ww - ww / 2) / ww = c - 1 + n := by rcases hww with rfl | rfl <;> omega
    rw [hprev, hwrap, hq, Nat.add_mod_right, Nat.mod_eq_of_lt (by omega), show c - 1 + n + 1 = c + n by omega,
      Nat.add_mod_right, Nat.mod_eq_of_lt hc]
    rcases hww with rfl | rfl <;> omega

/-- Every position of an axis of the padded image is covered (R196). -/
theorem axis_covered {ww n x : Nat} (hww : ww = 4 ∨ ww = 8) (hx : x < n * ww) :
    ∃ c t, c < n ∧ t < ww ∧
      x = ((((c : Int) - 1) * ww + (ww / 2 : Nat) + t) % ((n * ww : Nat) : Int)).toNat := by
  have hq : (x + ww / 2) / ww < n + 1 := by rcases hww with rfl | rfl <;> omega
  by_cases hlast : (x + ww / 2) / ww = n
  · refine ⟨0, (x + ww / 2) % ww, by rcases hww with rfl | rfl <;> omega, Nat.mod_lt _ (by omega), ?_⟩
    rw [← Int.add_emod_right, Int.emod_eq_of_lt] <;> rcases hww with rfl | rfl <;> push_cast <;> omega
  · refine ⟨(x + ww / 2) / ww, (x + ww / 2) % ww, by omega, Nat.mod_lt _ (by omega), ?_⟩
    rw [Int.emod_eq_of_lt] <;> rcases hww with rfl | rfl <;> push_cast <;> omega

/-- The maximum of R208 bounds every word's twiddled number. -/
theorem word_end_le {nx ny a b : Nat} (ha : a < nx) (hb : b < ny) : 8 * twiddle nx ny a b + 8 ≤ pvrtcNeed nx ny := by
  have key : ∀ (l : List (Nat × Nat)) (m : Nat),
      m ≤ l.foldl (fun m p => max m (twiddle nx ny p.1 p.2)) m ∧
        ∀ p ∈ l, twiddle nx ny p.1 p.2 ≤ l.foldl (fun m p => max m (twiddle nx ny p.1 p.2)) m := by
    intro l
    induction l with
    | nil => intro m; exact ⟨le_rfl, fun p hp => by cases hp⟩
    | cons q rest ih =>
      intro m
      obtain ⟨h1, h2⟩ := ih (max m (twiddle nx ny q.1 q.2))
      refine ⟨(le_max_left _ _).trans h1, fun p hp => ?_⟩
      rcases List.mem_cons.mp hp with rfl | hp
      · exact (le_max_right _ _).trans h1
      · exact h2 p hp
  have := (key (raster 0 0 nx ny) 0).2 (a, b) (mem_raster.mpr (by simp; omega))
  simp only [pvrtcNeed, Config.pvrtcWordBytes]
  simp only at this
  omega

theorem readWord_ok {u : DecodeUnit} {nx ny a b : Nat} (ha : a < nx) (hb : b < ny)
    (hp : pvrtcNeed nx ny ≤ payloadBytes u) : readWord u nx ny a b = .ok (wordAt u nx ny a b) := by
  have h : memRead u (Config.pvrtcWordBytes * twiddle nx ny a b) Config.pvrtcWordBytes =
      .ok (payloadSlice u (8 * twiddle nx ny a b) 8) := memRead_ok ((word_end_le ha hb).trans hp)
  rw [readWord, h]
  rfl

/-- The quad at the grid word `(wx, wy)` (R196). -/
def quadAt (u : DecodeUnit) (nx ny : Nat) (wx wy : Int) : Quad where
  p := wordAt u nx ny (wx % (nx : Int)).toNat (wy % (ny : Int)).toNat
  q := wordAt u nx ny ((wx + 1) % (nx : Int)).toNat (wy % (ny : Int)).toNat
  r := wordAt u nx ny (wx % (nx : Int)).toNat ((wy + 1) % (ny : Int)).toNat
  s := wordAt u nx ny ((wx + 1) % (nx : Int)).toNat ((wy + 1) % (ny : Int)).toNat

theorem toNat_emod_lt (x : Int) {n : Nat} (h : 0 < n) : (x % (n : Int)).toNat < n := by
  have h1 := Int.emod_nonneg x (b := (n : Int)) (by omega)
  have h2 := Int.emod_lt_of_pos x (b := (n : Int)) (by omega)
  omega

theorem readQuad_ok {u : DecodeUnit} {nx ny : Nat} (hx : 0 < nx) (hy : 0 < ny) (wx wy : Int)
    (hp : pvrtcNeed nx ny ≤ payloadBytes u) : readQuad u nx ny wx wy = .ok (quadAt u nx ny wx wy) := by
  simp only [readQuad, readWord_ok (toNat_emod_lt wx hx) (toNat_emod_lt wy hy) hp,
    readWord_ok (toNat_emod_lt (wx + 1) hx) (toNat_emod_lt wy hy) hp,
    readWord_ok (toNat_emod_lt wx hx) (toNat_emod_lt (wy + 1) hy) hp,
    readWord_ok (toNat_emod_lt (wx + 1) hx) (toNat_emod_lt (wy + 1) hy) hp, bind, Except.bind, pure, Except.pure]
  rfl

/-- An image after the pixel writes of a list. -/
def setAll (img : List Pixel) (ws : List (Nat × Pixel)) : List Pixel := ws.foldl (fun img w => img.set w.1 w.2) img

@[simp] theorem setAll_length (ws : List (Nat × Pixel)) (img : List Pixel) : (setAll img ws).length = img.length := by
  induction ws generalizing img with
  | nil => rfl
  | cons w rest ih => exact (ih _).trans (List.length_set ..)

theorem setAll_append (img : List Pixel) (ws ws' : List (Nat × Pixel)) :
    setAll img (ws ++ ws') = setAll (setAll img ws) ws' := by simp [setAll]

/-- A pixel that every write of it gives one value has that value. -/
theorem getD_setAll (ws : List (Nat × Pixel)) (img : List Pixel) (i : Nat) (v d : Pixel) (hi : i < img.length)
    (hm : (i, v) ∈ ws) (hv : ∀ w ∈ ws, w.1 = i → w.2 = v) : (setAll img ws).getD i d = v := by
  induction ws using List.reverseRecOn with
  | nil => cases hm
  | append_singleton ws w ih =>
    rw [setAll_append]
    change ((setAll img ws).set w.1 w.2).getD i d = v
    by_cases hw : w.1 = i
    · subst hw
      simp [List.getD_eq_getElem?_getD, hi, hv w (by simp) rfl]
    · have hm' : (i, v) ∈ ws := by
        rcases List.mem_append.mp hm with h | h
        · exact h
        · simp at h; subst h; exact absurd rfl hw
      have := ih hm' fun w' hw' => hv w' (by simp [hw'])
      simpa [List.getD_eq_getElem?_getD, List.getElem?_set_ne hw] using this

/-- The pixel writes of one quad (R196). -/
def quadWrites (ww nx ny : Nat) (wx wy : Int) (tile : List Pixel) : List (Nat × Pixel) :=
  (raster 0 0 ww 4).map fun p => (imageIndex ww nx ny wx wy p.1 p.2, tileAt tile (p.2 * ww + p.1))

theorem putQuad_eq (ww nx ny : Nat) (wx wy : Int) (tile img : List Pixel) :
    putQuad ww nx ny wx wy tile img = setAll img (quadWrites ww nx ny wx wy tile) := by
  simp only [putQuad, setAll, quadWrites, List.foldl_map]
  rfl

/-- A tile entry of a quad is the quad's pixel (R191). -/
theorem tileAt_quadTile {ww : Nat} (q : Quad) {tx ty : Nat} (hx : tx < ww) (hy : ty < 4) :
    tileAt (quadTile ww q) (ty * ww + tx) = quadPixel ww q tx ty := by
  have hi : ty * ww + tx < ww * 4 := index_lt hx hy
  have hmod : (ty * ww + tx) % ww = tx := by rw [Nat.mul_comm, Nat.mul_add_mod, Nat.mod_eq_of_lt hx]
  have hdiv : (ty * ww + tx) / ww = ty := by
    rw [Nat.mul_comm, Nat.mul_add_div (by omega), Nat.div_eq_of_lt hx, Nat.add_zero]
  simp [tileAt, quadTile, List.getD_eq_getElem?_getD, hi, hmod, hdiv]

/-- The writes of the whole pass. -/
def passWrites (u : DecodeUnit) (ww nx ny : Nat) : List (Nat × Pixel) :=
  (raster 0 0 nx ny).flatMap fun c =>
    quadWrites ww nx ny ((c.1 : Int) - 1) ((c.2 : Int) - 1)
      (quadTile ww (quadAt u nx ny ((c.1 : Int) - 1) ((c.2 : Int) - 1)))

/-- The writes of the pass are one write for each position of the padded image, of the pixel R196 gives it. -/
theorem mem_passWrites {u : DecodeUnit} {ww nx ny : Nat} (hww : ww = 4 ∨ ww = 8) (w : Nat × Pixel) :
    w ∈ passWrites u ww nx ny ↔
      ∃ x y, x < nx * ww ∧ y < ny * 4 ∧ w = (y * (nx * ww) + x, imagePixel u ww nx ny x y) := by
  have hval : ∀ c d tx ty : Nat, c < nx → d < ny → tx < ww → ty < 4 →
      let x := ((((c : Int) - 1) * ww + (ww / 2 : Nat) + tx) % ((nx * ww : Nat) : Int)).toNat
      let y := ((((d : Int) - 1) * (4 : Nat) + (4 / 2 : Nat) + ty) % ((ny * 4 : Nat) : Int)).toNat
      x < nx * ww ∧ y < ny * 4 ∧ imageIndex ww nx ny ((c : Int) - 1) ((d : Int) - 1) tx ty = y * (nx * ww) + x ∧
        quadPixel ww (quadAt u nx ny ((c : Int) - 1) ((d : Int) - 1)) tx ty = imagePixel u ww nx ny x y := by
    intro c d tx ty hc hd htx hty x y
    obtain ⟨hx, hx1, hx2, hx3⟩ := axis_position hww hc htx
    obtain ⟨hy, hy1, hy2, hy3⟩ := axis_position (Or.inl rfl) hd hty
    refine ⟨hx, hy, rfl, ?_⟩
    have ex1 : (x + nx * ww - ww / 2) / ww % nx = _ := hx1
    have ex2 : ((x + nx * ww - ww / 2) / ww + 1) % nx = _ := hx2
    have ex3 : (x + nx * ww - ww / 2) % ww = tx := hx3
    have ey1 : (y + ny * 4 - 2) / 4 % ny = _ := hy1
    have ey2 : ((y + ny * 4 - 2) / 4 + 1) % ny = _ := hy2
    have ey3 : (y + ny * 4 - 2) % 4 = ty := hy3
    simp only [imagePixel]
    rw [ex1, ex2, ex3, ey1, ey2, ey3]
    rfl
  simp only [passWrites, quadWrites, List.mem_flatMap, List.mem_map, mem_raster]
  constructor
  · rintro ⟨c, hc, p, hp, rfl⟩
    obtain ⟨h1, h2, h3, h4⟩ := hval c.1 c.2 p.1 p.2 (by omega) (by omega) (by omega) (by omega)
    exact ⟨_, _, h1, h2, by rw [h3, tileAt_quadTile _ (by omega) (by omega), h4]⟩
  · rintro ⟨x, y, hx, hy, rfl⟩
    obtain ⟨c, tx, hc, htx, rfl⟩ := axis_covered hww hx
    obtain ⟨d, ty, hd, hty, rfl⟩ := axis_covered (ww := 4) (Or.inl rfl) hy
    obtain ⟨h1, h2, h3, h4⟩ := hval c d tx ty hc hd htx hty
    exact ⟨(c, d), by simp only; omega, (tx, ty), by simp only; omega, by
      rw [h3, tileAt_quadTile _ htx hty, h4]⟩

/-- `IMAGE_PASS` never stops where the payload reaches `PVRTC_NEED`, and gives every position of the padded image the pixel
of R196. -/
theorem imagePass_ok {u : DecodeUnit} {ww nx ny : Nat} (hww : ww = 4 ∨ ww = 8) (hx : 0 < nx) (hy : 0 < ny)
    (hp : pvrtcNeed nx ny ≤ payloadBytes u) :
    ∃ v img, imagePass ww nx ny u = .ok (v, img) ∧ SameInputs u v ∧ v.writes = u.writes ∧
      ∀ x y d, x < nx * ww → y < ny * 4 → img.getD (y * (nx * ww) + x) d = imagePixel u ww nx ny x y := by
  have key : ∀ (l : List (Nat × Nat)) (v : DecodeUnit) (img : List Pixel), SameInputs u v → v.writes = u.writes →
      ∃ v', l.foldlM (imageStep ww nx ny) (v, img) =
          .ok (v', setAll img (l.flatMap fun c =>
            quadWrites ww nx ny ((c.1 : Int) - 1) ((c.2 : Int) - 1)
              (quadTile ww (quadAt u nx ny ((c.1 : Int) - 1) ((c.2 : Int) - 1))))) ∧
        SameInputs u v' ∧ v'.writes = u.writes := by
    intro l
    induction l with
    | nil => intro v img hv ht; exact ⟨v, rfl, hv, ht⟩
    | cons c rest ih =>
      intro v img hv ht
      have hs : SameInputs u (v.withCursor (.word ((c.1 : Int) - 1) ((c.2 : Int) - 1))) :=
        hv.trans (SameInputs.withCursor _ _)
      have hq : readQuad (v.withCursor (.word ((c.1 : Int) - 1) ((c.2 : Int) - 1))) nx ny ((c.1 : Int) - 1)
          ((c.2 : Int) - 1) = .ok (quadAt u nx ny ((c.1 : Int) - 1) ((c.2 : Int) - 1)) := by
        rw [readQuad_ok hx hy _ _ (by rw [hs.payloadBytes]; exact hp)]
        simp only [quadAt, wordAt, hs.payloadSlice]
      obtain ⟨v', hv', hs', ht'⟩ := ih (v.withCursor (.word ((c.1 : Int) - 1) ((c.2 : Int) - 1)))
        (setAll img (quadWrites ww nx ny ((c.1 : Int) - 1) ((c.2 : Int) - 1)
          (quadTile ww (quadAt u nx ny ((c.1 : Int) - 1) ((c.2 : Int) - 1))))) hs ht
      refine ⟨v', ?_, hs', ht'⟩
      rw [List.foldlM_cons, imageStep]
      simp only [hq, bind, Except.bind, pure, Except.pure, putQuad_eq, List.flatMap_cons, setAll_append]
      exact hv'
  obtain ⟨v, hv, hs, ht⟩ := key (raster 0 0 nx ny) u
    (List.replicate (nx * ww * (ny * Config.wordHeight)) transparentBlack) (SameInputs.refl u) rfl
  refine ⟨v, _, hv, hs, ht, fun x y d hxw hyh => ?_⟩
  refine getD_setAll _ _ _ _ _ ?_ ((mem_passWrites hww _).mpr ⟨x, y, hxw, hyh, rfl⟩) fun w hw hwi => ?_
  · simpa [Config.wordHeight] using index_lt hxw hyh
  · obtain ⟨x', y', hx', hy', rfl⟩ := (mem_passWrites hww w).mp hw
    obtain ⟨rfl, rfl⟩ := index_inj hx' hxw hwi
    rfl

/-- A position of a bitmap that lists its rectangle row by row (R42). -/
theorem pixel_of_raster (w h : Nat) (f : Nat × Nat → Pixel) {x y : Nat} (hx : x < w) (hy : y < h) :
    Bitmap.pixel { width := w, height := h, pixels := (raster 0 0 w h).map f } x y = some (f (x, y)) := by
  have key : ∀ (k y0 : Nat), y < k →
      (((List.range' y0 k).flatMap fun y => (List.range' 0 w).map fun x => (x, y)).map f)[y * w + x]? =
        some (f (x, y0 + y)) := by
    intro k
    induction k generalizing y with
    | zero => intro y0 h0; omega
    | succ k ih =>
      intro y0 h0
      rw [List.range'_succ, List.flatMap_cons, List.map_append]
      rcases Nat.eq_zero_or_pos y with rfl | hpos
      · rw [List.getElem?_append_left (by simpa using hx)]
        simp [hx]
      · obtain ⟨z, rfl⟩ : ∃ z, y = z + 1 := ⟨y - 1, by omega⟩
        have hlen : (((List.range' 0 w).map fun x => (x, y0)).map f).length = w := by simp
        rw [List.getElem?_append_right (by rw [hlen, Nat.add_mul]; omega), hlen,
          show (z + 1) * w + x - w = z * w + x by rw [Nat.add_mul]; omega, ih (y := z) (by omega) (y0 + 1) (by omega)]
        simp [Nat.add_assoc, Nat.add_comm 1 z]
  simp only [Bitmap.pixel, hx, hy, and_self, if_true, raster, Nat.sub_zero]
  simpa using key h 0 hy

/-- What a PVRTC DECODE computes on a miss, said once: the whole texture, cropped from the padded image (R194, R197). -/
theorem decodeImage_ok {u : DecodeUnit} {f : PvrtcFormat} {g : Geometry}
    (hp : pvrtcNeed (gridColumns f.wordWidth g.texW) (gridRows g.texH) ≤ payloadBytes u) :
    ∃ v bm, decodeImage f g u = .ok (v, bm) ∧ SameInputs u v ∧ v.writes = u.writes ∧ bm.width = g.texW ∧
      bm.height = g.texH ∧
      ∀ x y, x < g.texW → y < g.texH → bm.pixel x y = some (texturePixel u f g.texW g.texH x y) := by
  have hww : f.wordWidth = 4 ∨ f.wordWidth = 8 := by cases f <;> simp [PvrtcFormat.wordWidth]
  have hgx : 2 ≤ gridColumns f.wordWidth g.texW := le_max_right _ _
  have hgy : 2 ≤ gridRows g.texH := le_max_right _ _
  have hcx : g.texW ≤ gridColumns f.wordWidth g.texW * f.wordWidth := by
    have : ceilDiv g.texW f.wordWidth ≤ gridColumns f.wordWidth g.texW := le_max_left _ _
    rcases hww with h | h <;> rw [h] at this ⊢ <;> simp only [ceilDiv] at this <;> omega
  have hcy : g.texH ≤ gridRows g.texH * 4 := by
    have : ceilDiv g.texH Config.wordHeight ≤ gridRows g.texH := le_max_left _ _
    simp only [ceilDiv, Config.wordHeight] at this
    omega
  obtain ⟨v, img, hv, hs, ht, himg⟩ := imagePass_ok hww (by omega) (by omega) hp
  refine ⟨v, cropImage f.wordWidth (gridColumns f.wordWidth g.texW) g.texW g.texH img,
    by simp only [decodeImage, hv, bind, Except.bind, pure, Except.pure], hs, ht, rfl, rfl, fun x y hx hy => ?_⟩
  rw [cropImage, pixel_of_raster _ _ _ hx hy]
  simp only [tileAt]
  rw [himg x y _ (by omega) (by omega)]
  rfl

end Sys2Proof.Machine
end

