-- ==== Sys2Proof/Laws/Commands.lean ====
section
/-! SUPPORT. What a DECODE and a BLOCK command can do, said once, and which of the two each instruction is. -/

namespace Sys2Proof.Machine

/-- A DECODE instruction is the DECODE of its format word. -/
theorem exec_decode {i : Instr} (h : isDecodeCommand i = true) (s : State) :
    exec i s = decodeCommand (encodeFmt i) s := by
  cases i <;> first
    | rfl
    | (simp [isDecodeCommand, encodeCmd] at h; done)
    | (next c => simp [isDecodeCommand, encodeCmd, Instr.wellFormed] at h; rw [h.2] at h; simp at h)

/-- A BLOCK instruction is the BLOCK of its format word. -/
theorem exec_block {i : Instr} (h : isBlockCommand i = true) (s : State) : exec i s = blockCommand (encodeFmt i) s := by
  cases i <;> first
    | rfl
    | (simp [isBlockCommand, encodeCmd] at h; done)
    | (next c => simp [isBlockCommand, encodeCmd, Instr.wellFormed] at h; rw [h.2] at h; simp at h)

/-- `s` once its DECODE has decided its effects: the cursor `c`, the pixel writes `ws`, the insertion `e` and the completion
`k` (R62, R265). -/
def State.pending (s : State) (c : Option Cursor) (ws : List (Nat × Word32)) (e : Option (Word32 × Bitmap))
    (k : Completion) : State :=
  s.withUnit { s.unit with cursor := c, writes := ws, insertion := e, completion := some k }

/-- The same for a PVRTC DECODE, whose lookup has left the cache `d` (R197). -/
def State.imagePending (s : State) (c : Option Cursor) (ws : List (Nat × Word32)) (e : Option (Word32 × Bitmap))
    (d : List CacheEntry) : State :=
  ((s.pending c ws e .ok).withCache d).withGapOps []

/-- `s` after a PVRTC DECODE that completes, with its target memories `ts` and the cache `d`. -/
def State.imageDone (s : State) (ts : List (Nat × List (Nat × Word32))) (d : List CacheEntry) : State :=
  { s.decodeDone ts 0 with cache := d, gapOps := [] }

/-- What a DECODE with no insertion left to make does to its end, said once (R62, R63). -/
theorem pending_finish (s : State) (c : Option Cursor) (ws : List (Nat × Word32)) (k : Completion) :
    (s.pending c ws none k).proceed .finish = s.decodeDone (writeTargets s.targets s.unit.binding ws) k.status := rfl

theorem imagePending_finish_hit (s : State) (c : Option Cursor) (ws : List (Nat × Word32)) (d : List CacheEntry) :
    (s.imagePending c ws none d).proceed .finish =
      s.imageDone (writeTargets s.targets s.unit.binding ws) d := rfl

/-- What a DECODE with an insertion left to make does to its end, said once (R62, R63, R263). -/
theorem imagePending_finish_miss (s : State) (c : Option Cursor) (ws : List (Nat × Word32)) (id : Word32) (bm : Bitmap)
    (d : List CacheEntry) :
    (s.imagePending c ws (some (id, bm)) d).proceed .finish =
      s.imageDone (writeTargets s.targets s.unit.binding ws) (cacheInsert d id bm) := rfl

/-- Where no command is in progress, nothing proceeds. -/
theorem proceed_idle {s : State} (h : s.unit.completion = none) (p : Progress) : s.proceed p = s := by
  simp [State.proceed, h]

/-- A command that has completed has nothing left to do. -/
@[simp] theorem complete_proceed (s : State) (r : Option Bool) (k : Completion) (p : Progress) :
    (s.complete r k).proceed p = s.complete r k := rfl

theorem withUnit_pend {s : State} {v : DecodeUnit} (h : SameInputs s.unit v) (e : Option (Word32 × Bitmap))
    (k : Completion) : ∃ c, s.withUnit (v.pend e k) = s.pending c v.writes e k := by
  obtain ⟨c, hc⟩ := h.pend_eq e k
  exact ⟨c, by rw [hc]; rfl⟩

/-- The DXT and ETC procedure, said once (R228). -/
theorem decodeBlocks_eq {s : State} {g : Geometry} {r : Rect} (h : RegionReady s.unit g r) (h0 : s.unit.writes = [])
    (blockBytes : Nat) (tile : List Byte → List Pixel) :
    (s.unit.payloadLen = none ∧
      decodeBlocks blockBytes tile g r s = .error (.raise (.unsetConfig (.config .payloadLen)))) ∨
    ∃ len, s.unit.payloadLen = some len ∧
      ((len.toNat < blocksNeed blockBytes g r ∧ decodeBlocks blockBytes tile g r s = .error (.raise .payloadUnderrun)) ∨
      (blocksNeed blockBytes g r ≤ len.toNat ∧ ∃ c ws, decodeBlocks blockBytes tile g r s = .ok (s.pending c ws none .ok) ∧
        RegionWrites s.unit g r
          (fun x y => tileAt (tile (blockBytesAt s.unit g.texW blockBytes x y)) (4 * (y % 4) + x % 4)) ws)) := by
  rcases hl : s.unit.payloadLen with _ | len
  · have h' : s.unit.config .payloadLen = none := hl
    exact .inl ⟨rfl, by simp [decodeBlocks, readConfig_none h', bind, Except.bind]⟩
  · have h' : s.unit.config .payloadLen = some len := hl
    refine .inr ⟨len, rfl, ?_⟩
    by_cases hn : len.toNat < blocksNeed blockBytes g r
    · exact .inl ⟨hn, by simp [decodeBlocks, readConfig_some h', hn, bind, Except.bind]⟩
    · have hp : blocksNeed blockBytes g r ≤ payloadBytes s.unit := by simp only [payloadBytes, hl, Option.getD]; omega
      obtain ⟨v, ws, hv, hs, hws, hr⟩ := walk_ok blockBytes tile h.fitsW h.fitsH h.bounds.2.2 hp
      obtain ⟨c, hc⟩ := withUnit_pend hs none .ok
      rw [hws, h0, List.nil_append] at hc
      refine .inr ⟨by omega, c, ws, ?_, hr⟩
      simp only [decodeBlocks, readConfig_some h', hn, hv, bind, Except.bind, pure, Except.pure, if_false, hc]

/-- The Fallback procedure, said once (R231). -/
theorem decodeFallback_eq {s : State} {g : Geometry} {r : Rect} (h : RegionReady s.unit g r) (h0 : s.unit.writes = []) :
    ∃ c ws, decodeFallback g r s = .ok (s.pending c ws none .unimplementedPixelFormat) ∧
      RegionWrites s.unit g r (fun _ _ => transparentBlack) ws := by
  obtain ⟨v, ws, hv, hs, hws, hr⟩ := fill_ok (u := s.unit) h.fitsW h.fitsH h.bounds.2.2
  obtain ⟨c, hc⟩ := withUnit_pend hs none .unimplementedPixelFormat
  rw [hws, h0, List.nil_append] at hc
  refine ⟨c, ws, ?_, hr⟩
  simp only [decodeFallback, hv, bind, Except.bind, pure, Except.pure, hc]

/-- What a hit does: the region copy of the bitmap found (R197, R262, R265, R287). -/
theorem decodeCached_hit {s : State} {g : Geometry} {r : Rect} (h : RegionReady s.unit g r) (h0 : s.unit.writes = [])
    (f : PvrtcFormat) {id : Word32} {e : CacheEntry} (he : cacheFind s.cache id = some e) :
    (∃ pixel c ws, (∀ x y, r.contains x y = true → e.bitmap.pixel x y = some (pixel x y)) ∧
      decodeCached f g r id s =
        .ok (s.imagePending c ws none (cacheApplyAll (cacheRemove s.cache id ++ [e]) s.gapOps)) ∧
      RegionWrites s.unit g r pixel ws) ∨
    (decodeCached f g r id s = .error (.refuse .bitmapTooSmall) ∧
      ∃ x y, r.contains x y = true ∧ e.bitmap.pixel x y = none) := by
  rcases copyRegion_cases (u := s.unit) (bm := e.bitmap) h.fitsW h.fitsH h.bounds.2.2 with ⟨pixel, hpx⟩ | ⟨hc, hxy⟩
  · obtain ⟨v, ws, hv, hs, hws, hr⟩ := copyRegion_ok h.fitsW h.fitsH h.bounds.2.2 hpx
    obtain ⟨c, hc⟩ := withUnit_pend hs none .ok
    rw [hws, h0, List.nil_append] at hc
    refine .inl ⟨pixel, c, ws, hpx, ?_, hr⟩
    simp only [decodeCached, cacheLookup, he, hv, bind, Except.bind, pure, Except.pure, hc]
    rfl
  · refine .inr ⟨?_, hxy⟩
    simp only [decodeCached, cacheLookup, he, hc, bind, Except.bind]

/-- What a miss does: the image pass, the region copy, and the insertion still to be made (R196, R197, R263, R265). -/
theorem decodeCached_miss {s : State} {g : Geometry} {r : Rect} (h : RegionReady s.unit g r) (h0 : s.unit.writes = [])
    (f : PvrtcFormat) {id : Word32} (hn : cacheFind s.cache id = none)
    (hp : pvrtcNeed (gridColumns f.wordWidth g.texW) (gridRows g.texH) ≤ payloadBytes s.unit) :
    ∃ bm c ws, decodeCached f g r id s =
        .ok (s.imagePending c ws (some (id, bm)) (cacheApplyAll s.cache s.gapOps)) ∧
      bm.width = g.texW ∧ bm.height = g.texH ∧
      (∀ x y, x < g.texW → y < g.texH → bm.pixel x y = some (texturePixel s.unit f g.texW g.texH x y)) ∧
      RegionWrites s.unit g r (texturePixel s.unit f g.texW g.texH) ws := by
  obtain ⟨u, bm, hu, hs, ht, hw, hh, hbm⟩ := decodeImage_ok hp
  have hb := h.bounds
  have hpx : ∀ x y, r.contains x y = true → bm.pixel x y = some (texturePixel s.unit f g.texW g.texH x y) :=
    fun x y hxy => by
      rw [contains_iff] at hxy
      exact hbm x y (by omega) (by omega)
  obtain ⟨v, ws, hv, hs', hws, hr⟩ := copyRegion_ok h.fitsW h.fitsH (hs.targetWords.trans hb.2.2) hpx
  obtain ⟨c, hc⟩ := withUnit_pend (hs.trans hs') (some (id, bm)) .ok
  rw [hws, ht, h0, List.nil_append] at hc
  refine ⟨bm, c, ws, ?_, hw, hh, hbm, RegionWrites.of_exact h.fitsW h.fitsH hb.2.2 hr.exact⟩
  simp only [decodeCached, cacheLookup, hn, hu, hv, bind, Except.bind, pure, Except.pure, hc]
  rfl

/-- The checks of the PVRTC procedure (R197, R259). -/
theorem decodePvrtc_eq (s : State) (g : Geometry) (r : Rect) (f : PvrtcFormat) :
    (s.unit.payloadLen = none ∧ decodePvrtc f g r s = .error (.raise (.unsetConfig (.config .payloadLen)))) ∨
    (s.unit.payloadLen ≠ none ∧ s.unit.infoId = none ∧
      decodePvrtc f g r s = .error (.raise (.unsetConfig (.config .infoId)))) ∨
    ∃ len id, s.unit.payloadLen = some len ∧ s.unit.infoId = some id ∧
      ((len.toNat < pvrtcNeed (gridColumns f.wordWidth g.texW) (gridRows g.texH) ∧
          decodePvrtc f g r s = .error (.raise .payloadUnderrun)) ∨
       (pvrtcNeed (gridColumns f.wordWidth g.texW) (gridRows g.texH) ≤ payloadBytes s.unit ∧
          decodePvrtc f g r s = decodeCached f g r id s)) := by
  rcases hl : s.unit.payloadLen with _ | len
  · have h' : s.unit.config .payloadLen = none := hl
    exact .inl ⟨rfl, by simp [decodePvrtc, readConfig_none h', bind, Except.bind]⟩
  have h' : s.unit.config .payloadLen = some len := hl
  rcases hi : s.unit.infoId with _ | id
  · have h'' : s.unit.config .infoId = none := hi
    exact .inr (.inl ⟨by simp, rfl, by
      simp [decodePvrtc, readConfig_some h', readConfig_none h'', bind, Except.bind]⟩)
  have h'' : s.unit.config .infoId = some id := hi
  refine .inr (.inr ⟨len, id, rfl, rfl, ?_⟩)
  by_cases hn : len.toNat < pvrtcNeed (gridColumns f.wordWidth g.texW) (gridRows g.texH)
  · exact .inl ⟨hn, by simp [decodePvrtc, readConfig_some h', readConfig_some h'', hn, bind, Except.bind]⟩
  · refine .inr ⟨by simp only [payloadBytes, hl, Option.getD]; omega, ?_⟩
    simp [decodePvrtc, readConfig_some h', readConfig_some h'', hn, bind, Except.bind]

/-- What a family procedure can do on a ready region, said once: it raises; it leaves the writes of the region and a
completion to be made; a PVRTC DECODE leaves an insertion too where it misses; or it is refused (R287). -/
theorem decodeFamily_cases {s : State} {g : Geometry} {r : Rect} (h : RegionReady s.unit g r) (h0 : s.unit.writes = [])
    {k : FormatClass} (hk : k ≠ .unknown) :
    (∃ e, decodeFamily k g r s = .error (.raise e) ∧ legalOutcome e.status e.info = true) ∨
    (∃ c ws pixel n, (n = .ok ∨ (k = .fallback ∧ n = .unimplementedPixelFormat)) ∧
      decodeFamily k g r s = .ok (s.pending c ws none n) ∧ RegionWrites s.unit g r pixel ws) ∨
    (∃ f id c ws pixel e d, k = .pvrtc f ∧ s.unit.infoId = some id ∧
      decodeFamily k g r s = .ok (s.imagePending c ws e d) ∧ RegionWrites s.unit g r pixel ws ∧
      ((e = none ∧ d = cacheApplyAll (cacheLookup s.cache id).2 s.gapOps) ∨
        ∃ bm, e = some (id, bm) ∧ cacheFind s.cache id = none ∧ d = cacheApplyAll s.cache s.gapOps)) ∨
    (∃ f id e, k = .pvrtc f ∧ s.unit.infoId = some id ∧ cacheFind s.cache id = some e ∧
      decodeFamily k g r s = .error (.refuse .bitmapTooSmall) ∧
      ∃ x y, r.contains x y = true ∧ e.bitmap.pixel x y = none) := by
  cases k with
  | unknown => exact absurd rfl hk
  | fallback =>
    obtain ⟨c, ws, ht, hr⟩ := decodeFallback_eq h h0
    exact .inr (.inl ⟨c, ws, _, _, .inr ⟨rfl, rfl⟩, ht, hr⟩)
  | dxt f =>
    rcases decodeBlocks_eq h h0 f.blockBytes (dxtTile f) with ⟨-, he⟩ | ⟨len, -, ⟨-, he⟩ | ⟨-, c, ws, ht, hr⟩⟩
    · exact .inl ⟨_, he, rfl⟩
    · exact .inl ⟨_, he, rfl⟩
    · exact .inr (.inl ⟨c, ws, _, _, .inl rfl, ht, hr⟩)
  | etc f =>
    rcases decodeBlocks_eq h h0 f.blockBytes (etcTile f) with ⟨-, he⟩ | ⟨len, -, ⟨-, he⟩ | ⟨-, c, ws, ht, hr⟩⟩
    · exact .inl ⟨_, he, rfl⟩
    · exact .inl ⟨_, he, rfl⟩
    · exact .inr (.inl ⟨c, ws, _, _, .inl rfl, ht, hr⟩)
  | pvrtc f =>
    rcases decodePvrtc_eq s g r f with ⟨-, he⟩ | ⟨-, -, he⟩ | ⟨len, id, -, hid, ⟨-, he⟩ | ⟨hp, he⟩⟩
    · exact .inl ⟨_, he, rfl⟩
    · exact .inl ⟨_, he, rfl⟩
    · exact .inl ⟨_, he, rfl⟩
    · have he' : decodeFamily (.pvrtc f) g r s = decodeCached f g r id s := he
      rw [he']
      rcases hf : cacheFind s.cache id with _ | e
      · obtain ⟨bm, c, ws, ht, -, -, -, hr⟩ := decodeCached_miss h h0 f hf hp
        exact .inr (.inr (.inl ⟨f, id, c, ws, _, _, _, rfl, hid, ht, hr, .inr ⟨bm, rfl, hf, rfl⟩⟩))
      · rcases decodeCached_hit h h0 f hf with ⟨pixel, c, ws, -, ht, hr⟩ | ⟨ht, hxy⟩
        · exact .inr (.inr (.inl ⟨f, id, c, ws, _, _, _, rfl, hid, ht, hr, .inl ⟨rfl, by simp [cacheLookup, hf]⟩⟩))
        · exact .inr (.inr (.inr ⟨f, id, e, rfl, hid, hf, ht, hxy⟩))

/-- An instruction is a DECODE of some format word, a BLOCK of one, FLUSH, or an illegal word. -/
theorem exec_cases (i : Instr) :
    (∃ f, ∀ s, exec i s = decodeCommand f s) ∨ (∃ f, ∀ s, exec i s = blockCommand f s) ∨
    (∀ s, exec i s = .next ((s.withCache []).complete none .ok)) ∨ ∀ s, exec i s = .next (s.raise false .illegalWord) := by
  cases i <;> first
    | exact .inl ⟨_, fun s => rfl⟩
    | exact .inr (.inl ⟨_, fun s => rfl⟩)
    | exact .inr (.inr (.inl fun s => rfl))
    | exact .inr (.inr (.inr fun s => rfl))

/-- The family procedure starts with no pixel write made; that changes nothing it reads. -/
theorem RegionReady.withWrites {u : DecodeUnit} {g : Geometry} {r : Rect} (h : RegionReady u g r)
    (ws : List (Nat × Word32)) : RegionReady (u.withWrites ws) g r := { h with }

/-- A DECODE reaches its family procedure where the entry answers with a region, and else ends in the entry. -/
theorem decodeProcedure_run {fmt : Word64} {s : State} {c : FormatClass} {g : Geometry} {r : Rect}
    (h : decodeEntry s.params fmt s.unit = .ok (.run c g r)) :
    decodeProcedure fmt s = decodeFamily c g r (s.withUnit (s.unit.withWrites [])) := by
  simp [decodeProcedure, h, bind, Except.bind]

theorem decodeProcedure_error {fmt : Word64} {s : State} {e : Stop} (h : decodeEntry s.params fmt s.unit = .error e) :
    decodeProcedure fmt s = .error e := by simp [decodeProcedure, h, bind, Except.bind]

theorem decodeProcedure_null {fmt : Word64} {s : State} (h : decodeEntry s.params fmt s.unit = .ok .nullArguments) :
    decodeProcedure fmt s = .ok (s.complete (some false) .invalidDecodeArguments) := by
  simp [decodeProcedure, h, bind, Except.bind, pure, Except.pure]

theorem decodeProcedure_empty {fmt : Word64} {s : State} {c : FormatClass}
    (h : decodeEntry s.params fmt s.unit = .ok (.emptyRegion c)) :
    decodeProcedure fmt s = .ok (s.complete (some true) (emptyRegionCompletion c)) := by
  simp [decodeProcedure, h, bind, Except.bind, pure, Except.pure]

/-- What a DECODE can do before its writes, said once (R220, R235): it raises; it completes at once; it leaves the writes of
a region, an insertion where it missed, and a completion to be made; or it is refused (R287). -/
theorem decodeProcedure_cases (fmt : Word64) (s : State) :
    (∃ e, decodeProcedure fmt s = .error (.raise e) ∧ legalOutcome e.status e.info = true) ∨
    decodeProcedure fmt s = .ok (s.complete (some false) .invalidDecodeArguments) ∨
    (∃ k, (k = .ok ∨ k = .unimplementedPixelFormat) ∧ decodeProcedure fmt s = .ok (s.complete (some true) k)) ∨
    (∃ c ws k g r pixel, (k = .ok ∨ k = .unimplementedPixelFormat) ∧
      decodeProcedure fmt s = .ok (s.pending c ws none k) ∧ RegionWrites s.unit g r pixel ws) ∨
    (∃ id c ws g r pixel e d, s.unit.infoId = some id ∧ decodeProcedure fmt s = .ok (s.imagePending c ws e d) ∧
      RegionWrites s.unit g r pixel ws ∧
      ((e = none ∧ d = cacheApplyAll (cacheLookup s.cache id).2 s.gapOps) ∨
        ∃ bm, e = some (id, bm) ∧ cacheFind s.cache id = none ∧ d = cacheApplyAll s.cache s.gapOps)) ∨
    decodeProcedure fmt s = .error (.refuse .bitmapTooSmall) := by
  rcases decodeEntry_cases s.params fmt s.unit with ⟨e, h, he⟩ | h | ⟨h, -⟩ | ⟨g, r, h, hr, hk⟩
  · exact .inl ⟨e, decodeProcedure_error h, he⟩
  · exact .inr (.inl (decodeProcedure_null h))
  · refine .inr (.inr (.inl ⟨_, ?_, decodeProcedure_empty h⟩))
    cases classOf s.params fmt <;> simp [emptyRegionCompletion]
  · rw [decodeProcedure_run h]
    rcases decodeFamily_cases (s := s.withUnit (s.unit.withWrites [])) (hr.withWrites []) rfl hk with
      ⟨e, h, he⟩ | ⟨c, ws, px, n, hn, h, hw⟩ | ⟨_, id, c, ws, px, e, d, -, hid, h, hw, hd⟩ | ⟨_, _, _, _, _, _, h, _⟩
    · exact .inl ⟨e, h, he⟩
    · exact .inr (.inr (.inr (.inl ⟨c, ws, n, g, r, px, hn.imp id And.right, h, { hw with }⟩)))
    · exact .inr (.inr (.inr (.inr (.inl ⟨id, c, ws, g, r, px, e, d, hid, h, { hw with }, hd⟩))))
    · exact .inr (.inr (.inr (.inr (.inr h))))

/-- What a DECODE can do to its end, said once (R220, R235). -/
theorem decodeCommand_cases (fmt : Word64) (s : State) :
    (∃ e, decodeCommand fmt s = .next (s.raise true e) ∧ legalOutcome e.status e.info = true) ∨
    decodeCommand fmt s = .next (s.complete (some false) .invalidDecodeArguments) ∨
    (∃ k, (k = .ok ∨ k = .unimplementedPixelFormat) ∧ decodeCommand fmt s = .next (s.complete (some true) k)) ∨
    (∃ ws k, (k = 0 ∨ k = 3) ∧
      decodeCommand fmt s = .next (s.decodeDone (writeTargets s.targets s.unit.binding ws) k)) ∨
    (∃ id ws d, s.unit.infoId = some id ∧
      decodeCommand fmt s = .next (s.imageDone (writeTargets s.targets s.unit.binding ws) d) ∧
      (d = cacheApplyAll (cacheLookup s.cache id).2 s.gapOps ∨
        ∃ bm, cacheFind s.cache id = none ∧ d = cacheInsert (cacheApplyAll s.cache s.gapOps) id bm)) ∨
    decodeCommand fmt s = .refused .bitmapTooSmall := by
  rcases decodeProcedure_cases fmt s with ⟨e, h, he⟩ | h | ⟨k, hk, h⟩ | ⟨c, ws, k, g, r, px, hk, h, -⟩ |
    ⟨id, c, ws, g, r, px, e, d, hid, h, -, hd⟩ | h
  · exact .inl ⟨e, by simp [decodeCommand, h, Except.map], he⟩
  · exact .inr (.inl (by simp [decodeCommand, h, Except.map]))
  · exact .inr (.inr (.inl ⟨k, hk, by simp [decodeCommand, h, Except.map]⟩))
  · refine .inr (.inr (.inr (.inl ⟨ws, k.status, ?_, ?_⟩)))
    · rcases hk with rfl | rfl <;> simp [Completion.status]
    · simp [decodeCommand, h, Except.map, pending_finish]
  · rcases hd with ⟨rfl, rfl⟩ | ⟨bm, rfl, hf, rfl⟩
    · exact .inr (.inr (.inr (.inr (.inl ⟨id, ws, _, hid, by
        simp [decodeCommand, h, Except.map, imagePending_finish_hit], .inl rfl⟩))))
    · exact .inr (.inr (.inr (.inr (.inl ⟨id, ws, _, hid, by
        simp [decodeCommand, h, Except.map, imagePending_finish_miss], .inr ⟨bm, hf, rfl⟩⟩))))
  · exact .inr (.inr (.inr (.inr (.inr (by simp [decodeCommand, h, Except.map, finish])))))

/-- A DECODE whose procedure leaves its effects to be made answers the state in which they are made. -/
theorem decodeCommand_of_ok {fmt : Word64} {s t : State} (h : decodeProcedure fmt s = .ok t) :
    decodeCommand fmt s = .next (t.proceed .finish) := by simp [decodeCommand, h, Except.map]

theorem decodeCommand_of_raise {fmt : Word64} {s : State} {e : ErrorKind}
    (h : decodeProcedure fmt s = .error (.raise e)) : decodeCommand fmt s = .next (s.raise true e) := by
  simp [decodeCommand, h, Except.map]

/-- A DECODE left in progress and then finished ends as the DECODE that runs whole (R62). -/
theorem decodeCommand_eq_startDecode (fmt : Word64) (s : State) :
    decodeCommand fmt s =
      match decodeProcedure fmt s with
      | .ok t => .next (t.proceed .finish)
      | .error _ => startDecode fmt s := by
  unfold decodeCommand startDecode
  rcases decodeProcedure fmt s with e | t <;> rfl

/-- `s` after a BLOCK that completes with the output latch `o`. -/
theorem complete_block (s : State) (o : Vector (Option Pixel) 32) :
    (s.withUnit (s.unit.withBlkOut o)).complete none .ok = s.blockDone o := rfl

/-- What a BLOCK can do, said once (R234, R257, R260). -/
theorem blockProcedure_cases (fmt : Word64) (s : State) :
    (s.unit.fmt = none ∧ blockProcedure fmt s = .error (.raise (.unsetConfig .fmt))) ∨
    (s.unit.fmt.isSome = true ∧ blockClassOf s.params fmt = none ∧
      blockProcedure fmt s = .error (.raise .illegalBlock)) ∨
    ∃ c, s.unit.fmt.isSome = true ∧ blockClassOf s.params fmt = some c ∧
      (blockProcedure fmt s = .error (.raise (.unsetConfig .blkIn)) ∨
       ∃ bytes, LatchHolds s.unit c.latchBytes bytes ∧
         blockProcedure fmt s = .ok (s.blockDone (blkOutAfter s.unit.blkOut (blockTile c bytes)))) := by
  rcases hf : s.unit.fmt with _ | f
  · exact .inl ⟨rfl, by simp [blockProcedure, readFmt_none hf, bind, Except.bind]⟩
  have hf' : s.unit.fmt.isSome = true := by simp [hf]
  rcases hc : blockClassOf s.params fmt with _ | c
  · exact .inr (.inl ⟨rfl, rfl, by simp [blockProcedure, readFmt_some hf', hc, bind, Except.bind]⟩)
  refine .inr (.inr ⟨c, rfl, rfl, ?_⟩)
  rcases hl : readLatch s.unit c.latchBytes with e | bytes
  · refine .inl ?_
    have : e = .raise (.unsetConfig .blkIn) := by
      simp only [readLatch] at hl
      split at hl <;> simp_all
    simp [blockProcedure, readFmt_some hf', hc, hl, this, bind, Except.bind]
  · refine .inr ⟨bytes, readLatch_ok hl, ?_⟩
    simp only [blockProcedure, readFmt_some hf', hc, hl, bind, Except.bind, pure, Except.pure, complete_block]

end Sys2Proof.Machine
end

