-- ==== Sys2Proof/Laws/Host.lean ====
section
/-! SUPPORT. What each access of the host does, said once (30_encoding.md R75, R76; 60_exceptions.md R251, R271). -/

namespace Sys2Proof.Machine

/-! ### The loads leave every other register as it was -/

@[simp] theorem loadBlkIn_fmt (u : DecodeUnit) (bytes : List Byte) : (loadBlkIn u bytes).fmt = u.fmt := by unfold loadBlkIn; rfl
@[simp] theorem loadBlkIn_flags (u : DecodeUnit) (bytes : List Byte) : (loadBlkIn u bytes).flags = u.flags := by unfold loadBlkIn; rfl
@[simp] theorem loadBlkIn_cspace (u : DecodeUnit) (bytes : List Byte) : (loadBlkIn u bytes).cspace = u.cspace := by unfold loadBlkIn; rfl
@[simp] theorem loadBlkIn_chtype (u : DecodeUnit) (bytes : List Byte) : (loadBlkIn u bytes).chtype = u.chtype := by unfold loadBlkIn; rfl
@[simp] theorem loadBlkIn_texW (u : DecodeUnit) (bytes : List Byte) : (loadBlkIn u bytes).texW = u.texW := by unfold loadBlkIn; rfl
@[simp] theorem loadBlkIn_texH (u : DecodeUnit) (bytes : List Byte) : (loadBlkIn u bytes).texH = u.texH := by unfold loadBlkIn; rfl
@[simp] theorem loadBlkIn_texDepth (u : DecodeUnit) (bytes : List Byte) : (loadBlkIn u bytes).texDepth = u.texDepth := by unfold loadBlkIn; rfl
@[simp] theorem loadBlkIn_surfaces (u : DecodeUnit) (bytes : List Byte) : (loadBlkIn u bytes).surfaces = u.surfaces := by unfold loadBlkIn; rfl
@[simp] theorem loadBlkIn_faces (u : DecodeUnit) (bytes : List Byte) : (loadBlkIn u bytes).faces = u.faces := by unfold loadBlkIn; rfl
@[simp] theorem loadBlkIn_mipmaps (u : DecodeUnit) (bytes : List Byte) : (loadBlkIn u bytes).mipmaps = u.mipmaps := by unfold loadBlkIn; rfl
@[simp] theorem loadBlkIn_payloadLen (u : DecodeUnit) (bytes : List Byte) : (loadBlkIn u bytes).payloadLen = u.payloadLen := by unfold loadBlkIn; rfl
@[simp] theorem loadBlkIn_infoId (u : DecodeUnit) (bytes : List Byte) : (loadBlkIn u bytes).infoId = u.infoId := by unfold loadBlkIn; rfl
@[simp] theorem loadBlkIn_regX (u : DecodeUnit) (bytes : List Byte) : (loadBlkIn u bytes).regX = u.regX := by unfold loadBlkIn; rfl
@[simp] theorem loadBlkIn_regY (u : DecodeUnit) (bytes : List Byte) : (loadBlkIn u bytes).regY = u.regY := by unfold loadBlkIn; rfl
@[simp] theorem loadBlkIn_regW (u : DecodeUnit) (bytes : List Byte) : (loadBlkIn u bytes).regW = u.regW := by unfold loadBlkIn; rfl
@[simp] theorem loadBlkIn_regH (u : DecodeUnit) (bytes : List Byte) : (loadBlkIn u bytes).regH = u.regH := by unfold loadBlkIn; rfl
@[simp] theorem loadBlkIn_tgtW (u : DecodeUnit) (bytes : List Byte) : (loadBlkIn u bytes).tgtW = u.tgtW := by unfold loadBlkIn; rfl
@[simp] theorem loadBlkIn_tgtH (u : DecodeUnit) (bytes : List Byte) : (loadBlkIn u bytes).tgtH = u.tgtH := by unfold loadBlkIn; rfl
@[simp] theorem loadBlkIn_ctrl (u : DecodeUnit) (bytes : List Byte) : (loadBlkIn u bytes).ctrl = u.ctrl := by unfold loadBlkIn; rfl
@[simp] theorem loadBlkIn_cmd (u : DecodeUnit) (bytes : List Byte) : (loadBlkIn u bytes).cmd = u.cmd := by unfold loadBlkIn; rfl
@[simp] theorem loadBlkIn_result (u : DecodeUnit) (bytes : List Byte) : (loadBlkIn u bytes).result = u.result := by unfold loadBlkIn; rfl
@[simp] theorem loadBlkIn_status (u : DecodeUnit) (bytes : List Byte) : (loadBlkIn u bytes).status = u.status := by unfold loadBlkIn; rfl
@[simp] theorem loadBlkIn_faultInfo (u : DecodeUnit) (bytes : List Byte) : (loadBlkIn u bytes).faultInfo = u.faultInfo := by unfold loadBlkIn; rfl
@[simp] theorem loadBlkIn_faultSeen (u : DecodeUnit) (bytes : List Byte) : (loadBlkIn u bytes).faultSeen = u.faultSeen := by unfold loadBlkIn; rfl
@[simp] theorem loadBlkIn_blkOut (u : DecodeUnit) (bytes : List Byte) : (loadBlkIn u bytes).blkOut = u.blkOut := by unfold loadBlkIn; rfl
@[simp] theorem loadBlkIn_cursor (u : DecodeUnit) (bytes : List Byte) : (loadBlkIn u bytes).cursor = u.cursor := by unfold loadBlkIn; rfl
@[simp] theorem loadBlkIn_payload (u : DecodeUnit) (bytes : List Byte) : (loadBlkIn u bytes).payload = u.payload := by unfold loadBlkIn; rfl
@[simp] theorem loadBlkIn_binding (u : DecodeUnit) (bytes : List Byte) : (loadBlkIn u bytes).binding = u.binding := by unfold loadBlkIn; rfl
@[simp] theorem loadBlkIn_writes (u : DecodeUnit) (bytes : List Byte) : (loadBlkIn u bytes).writes = u.writes := by unfold loadBlkIn; rfl
@[simp] theorem loadBlkIn_insertion (u : DecodeUnit) (bytes : List Byte) : (loadBlkIn u bytes).insertion = u.insertion := by unfold loadBlkIn; rfl
@[simp] theorem loadBlkIn_completion (u : DecodeUnit) (bytes : List Byte) : (loadBlkIn u bytes).completion = u.completion := by unfold loadBlkIn; rfl

@[simp] theorem loadPayload_fmt (u : DecodeUnit) (bytes : List Byte) : (loadPayload u bytes).fmt = u.fmt := by unfold loadPayload; rfl
@[simp] theorem loadPayload_flags (u : DecodeUnit) (bytes : List Byte) : (loadPayload u bytes).flags = u.flags := by unfold loadPayload; rfl
@[simp] theorem loadPayload_cspace (u : DecodeUnit) (bytes : List Byte) : (loadPayload u bytes).cspace = u.cspace := by unfold loadPayload; rfl
@[simp] theorem loadPayload_chtype (u : DecodeUnit) (bytes : List Byte) : (loadPayload u bytes).chtype = u.chtype := by unfold loadPayload; rfl
@[simp] theorem loadPayload_texW (u : DecodeUnit) (bytes : List Byte) : (loadPayload u bytes).texW = u.texW := by unfold loadPayload; rfl
@[simp] theorem loadPayload_texH (u : DecodeUnit) (bytes : List Byte) : (loadPayload u bytes).texH = u.texH := by unfold loadPayload; rfl
@[simp] theorem loadPayload_texDepth (u : DecodeUnit) (bytes : List Byte) : (loadPayload u bytes).texDepth = u.texDepth := by unfold loadPayload; rfl
@[simp] theorem loadPayload_surfaces (u : DecodeUnit) (bytes : List Byte) : (loadPayload u bytes).surfaces = u.surfaces := by unfold loadPayload; rfl
@[simp] theorem loadPayload_faces (u : DecodeUnit) (bytes : List Byte) : (loadPayload u bytes).faces = u.faces := by unfold loadPayload; rfl
@[simp] theorem loadPayload_mipmaps (u : DecodeUnit) (bytes : List Byte) : (loadPayload u bytes).mipmaps = u.mipmaps := by unfold loadPayload; rfl
@[simp] theorem loadPayload_infoId (u : DecodeUnit) (bytes : List Byte) : (loadPayload u bytes).infoId = u.infoId := by unfold loadPayload; rfl
@[simp] theorem loadPayload_regX (u : DecodeUnit) (bytes : List Byte) : (loadPayload u bytes).regX = u.regX := by unfold loadPayload; rfl
@[simp] theorem loadPayload_regY (u : DecodeUnit) (bytes : List Byte) : (loadPayload u bytes).regY = u.regY := by unfold loadPayload; rfl
@[simp] theorem loadPayload_regW (u : DecodeUnit) (bytes : List Byte) : (loadPayload u bytes).regW = u.regW := by unfold loadPayload; rfl
@[simp] theorem loadPayload_regH (u : DecodeUnit) (bytes : List Byte) : (loadPayload u bytes).regH = u.regH := by unfold loadPayload; rfl
@[simp] theorem loadPayload_tgtW (u : DecodeUnit) (bytes : List Byte) : (loadPayload u bytes).tgtW = u.tgtW := by unfold loadPayload; rfl
@[simp] theorem loadPayload_tgtH (u : DecodeUnit) (bytes : List Byte) : (loadPayload u bytes).tgtH = u.tgtH := by unfold loadPayload; rfl
@[simp] theorem loadPayload_ctrl (u : DecodeUnit) (bytes : List Byte) : (loadPayload u bytes).ctrl = u.ctrl := by unfold loadPayload; rfl
@[simp] theorem loadPayload_blkIn (u : DecodeUnit) (bytes : List Byte) : (loadPayload u bytes).blkIn = u.blkIn := by unfold loadPayload; rfl
@[simp] theorem loadPayload_cmd (u : DecodeUnit) (bytes : List Byte) : (loadPayload u bytes).cmd = u.cmd := by unfold loadPayload; rfl
@[simp] theorem loadPayload_result (u : DecodeUnit) (bytes : List Byte) : (loadPayload u bytes).result = u.result := by unfold loadPayload; rfl
@[simp] theorem loadPayload_status (u : DecodeUnit) (bytes : List Byte) : (loadPayload u bytes).status = u.status := by unfold loadPayload; rfl
@[simp] theorem loadPayload_faultInfo (u : DecodeUnit) (bytes : List Byte) : (loadPayload u bytes).faultInfo = u.faultInfo := by unfold loadPayload; rfl
@[simp] theorem loadPayload_faultSeen (u : DecodeUnit) (bytes : List Byte) : (loadPayload u bytes).faultSeen = u.faultSeen := by unfold loadPayload; rfl
@[simp] theorem loadPayload_blkOut (u : DecodeUnit) (bytes : List Byte) : (loadPayload u bytes).blkOut = u.blkOut := by unfold loadPayload; rfl
@[simp] theorem loadPayload_cursor (u : DecodeUnit) (bytes : List Byte) : (loadPayload u bytes).cursor = u.cursor := by unfold loadPayload; rfl
@[simp] theorem loadPayload_binding (u : DecodeUnit) (bytes : List Byte) : (loadPayload u bytes).binding = u.binding := by unfold loadPayload; rfl
@[simp] theorem loadPayload_writes (u : DecodeUnit) (bytes : List Byte) : (loadPayload u bytes).writes = u.writes := by unfold loadPayload; rfl
@[simp] theorem loadPayload_insertion (u : DecodeUnit) (bytes : List Byte) : (loadPayload u bytes).insertion = u.insertion := by unfold loadPayload; rfl
@[simp] theorem loadPayload_completion (u : DecodeUnit) (bytes : List Byte) : (loadPayload u bytes).completion = u.completion := by unfold loadPayload; rfl

@[simp] theorem loadHeader_infoId (u : DecodeUnit) (h : Header) : (loadHeader u h).infoId = u.infoId := by
  unfold loadHeader loadPayload; rfl
@[simp] theorem loadHeader_regX (u : DecodeUnit) (h : Header) : (loadHeader u h).regX = u.regX := by
  unfold loadHeader loadPayload; rfl
@[simp] theorem loadHeader_regY (u : DecodeUnit) (h : Header) : (loadHeader u h).regY = u.regY := by
  unfold loadHeader loadPayload; rfl
@[simp] theorem loadHeader_regW (u : DecodeUnit) (h : Header) : (loadHeader u h).regW = u.regW := by
  unfold loadHeader loadPayload; rfl
@[simp] theorem loadHeader_regH (u : DecodeUnit) (h : Header) : (loadHeader u h).regH = u.regH := by
  unfold loadHeader loadPayload; rfl
@[simp] theorem loadHeader_tgtW (u : DecodeUnit) (h : Header) : (loadHeader u h).tgtW = u.tgtW := by
  unfold loadHeader loadPayload; rfl
@[simp] theorem loadHeader_tgtH (u : DecodeUnit) (h : Header) : (loadHeader u h).tgtH = u.tgtH := by
  unfold loadHeader loadPayload; rfl
@[simp] theorem loadHeader_ctrl (u : DecodeUnit) (h : Header) : (loadHeader u h).ctrl = u.ctrl := by
  unfold loadHeader loadPayload; rfl
@[simp] theorem loadHeader_blkIn (u : DecodeUnit) (h : Header) : (loadHeader u h).blkIn = u.blkIn := by
  unfold loadHeader loadPayload; rfl
@[simp] theorem loadHeader_cmd (u : DecodeUnit) (h : Header) : (loadHeader u h).cmd = u.cmd := by
  unfold loadHeader loadPayload; rfl
@[simp] theorem loadHeader_result (u : DecodeUnit) (h : Header) : (loadHeader u h).result = u.result := by
  unfold loadHeader loadPayload; rfl
@[simp] theorem loadHeader_status (u : DecodeUnit) (h : Header) : (loadHeader u h).status = u.status := by
  unfold loadHeader loadPayload; rfl
@[simp] theorem loadHeader_faultInfo (u : DecodeUnit) (h : Header) : (loadHeader u h).faultInfo = u.faultInfo := by
  unfold loadHeader loadPayload; rfl
@[simp] theorem loadHeader_faultSeen (u : DecodeUnit) (h : Header) : (loadHeader u h).faultSeen = u.faultSeen := by
  unfold loadHeader loadPayload; rfl
@[simp] theorem loadHeader_blkOut (u : DecodeUnit) (h : Header) : (loadHeader u h).blkOut = u.blkOut := by
  unfold loadHeader loadPayload; rfl
@[simp] theorem loadHeader_cursor (u : DecodeUnit) (h : Header) : (loadHeader u h).cursor = u.cursor := by
  unfold loadHeader loadPayload; rfl
@[simp] theorem loadHeader_binding (u : DecodeUnit) (h : Header) : (loadHeader u h).binding = u.binding := by
  unfold loadHeader loadPayload; rfl
@[simp] theorem loadHeader_writes (u : DecodeUnit) (h : Header) : (loadHeader u h).writes = u.writes := by
  unfold loadHeader loadPayload; rfl
@[simp] theorem loadHeader_insertion (u : DecodeUnit) (h : Header) : (loadHeader u h).insertion = u.insertion := by
  unfold loadHeader loadPayload; rfl
@[simp] theorem loadHeader_completion (u : DecodeUnit) (h : Header) : (loadHeader u h).completion = u.completion := by
  unfold loadHeader loadPayload; rfl

@[simp] theorem loadHeader_flags (u : DecodeUnit) (h : Header) : (loadHeader u h).flags = some h.flags := rfl
@[simp] theorem loadHeader_fmt (u : DecodeUnit) (h : Header) : (loadHeader u h).fmt = some h.fmt := rfl
@[simp] theorem loadHeader_cspace (u : DecodeUnit) (h : Header) : (loadHeader u h).cspace = some h.cspace := rfl
@[simp] theorem loadHeader_chtype (u : DecodeUnit) (h : Header) : (loadHeader u h).chtype = some h.chtype := rfl
@[simp] theorem loadHeader_texH (u : DecodeUnit) (h : Header) : (loadHeader u h).texH = some h.texH := rfl
@[simp] theorem loadHeader_texW (u : DecodeUnit) (h : Header) : (loadHeader u h).texW = some h.texW := rfl
@[simp] theorem loadHeader_texDepth (u : DecodeUnit) (h : Header) : (loadHeader u h).texDepth = some h.texDepth := rfl
@[simp] theorem loadHeader_surfaces (u : DecodeUnit) (h : Header) : (loadHeader u h).surfaces = some h.surfaces := rfl
@[simp] theorem loadHeader_faces (u : DecodeUnit) (h : Header) : (loadHeader u h).faces = some h.faces := rfl
@[simp] theorem loadHeader_mipmaps (u : DecodeUnit) (h : Header) : (loadHeader u h).mipmaps = some h.mipmaps := rfl

@[simp] theorem loadPayload_payload (u : DecodeUnit) (bytes : List Byte) :
    (loadPayload u bytes).payload = Memory.writeFrom u.payload 0 bytes := rfl

@[simp] theorem loadPayload_payloadLen (u : DecodeUnit) (bytes : List Byte) :
    (loadPayload u bytes).payloadLen = some (BitVec.ofNat 32 bytes.length) := rfl

@[simp] theorem loadHeader_payload (u : DecodeUnit) (h : Header) :
    (loadHeader u h).payload = Memory.writeFrom u.payload 0 h.payload := rfl

@[simp] theorem loadHeader_payloadLen (u : DecodeUnit) (h : Header) :
    (loadHeader u h).payloadLen = some (BitVec.ofNat 32 h.payload.length) := rfl

/-! ### One access, one equation -/

theorem turn_idle {s : State} (h : s.host = []) : step s = .next s := by simp [step, turn, h]

theorem turn_cons {s : State} {e : HostEvent} {rest : List HostEvent} (h : s.host = e :: rest) :
    step s = hostAccess (s.withHost rest) e := by simp [step, turn, h]

/-- An access to an idle unit is admitted. -/
theorem hostAccess_idle {s : State} (h : s.unit.cmd = none) (e : HostEvent) : hostAccess s e = admittedAccess s e := by
  simp [hostAccess, h]

/-- An access that needs no idle unit is admitted. -/
theorem hostAccess_free {e : HostEvent} (h : needsIdleUnit e = false) (s : State) : hostAccess s e = admittedAccess s e := by
  simp [hostAccess, h]

/-- An access that needs an idle unit is refused while a command is in progress (R268, R285). -/
theorem hostAccess_busy {s : State} {e : HostEvent} (h : s.unit.cmd ≠ none) (he : needsIdleUnit e = true) :
    hostAccess s e = .refused .commandInProgress := by
  simp [hostAccess, he, Option.isSome_iff_ne_none, h]

theorem admittedAccess_setFmt (s : State) (v : Word64) :
    admittedAccess s (.setFmt v) = .next (s.withUnit { s.unit with fmt := some v }) := rfl

theorem admittedAccess_set (s : State) (r : ConfigReg) (v : Word32) :
    admittedAccess s (.set r v) = .next (s.withUnit (s.unit.setConfig r v)) := rfl

theorem admittedAccess_writeBlkIn (s : State) (i : Fin 32) (v : Byte) :
    admittedAccess s (.writeBlkIn i v) = .next (s.withUnit { s.unit with blkIn := s.unit.blkIn.set i.val (some v) }) := rfl

theorem admittedAccess_loadBlkIn (s : State) (bytes : List Byte) :
    admittedAccess s (.loadBlkIn bytes) = .next (s.withUnit (loadBlkIn s.unit bytes)) := rfl

theorem admittedAccess_writePayload (s : State) (a : Word32) (v : Byte) :
    admittedAccess s (.writePayload a v) =
      .next (s.withUnit { s.unit with payload := Memory.write s.unit.payload a.toNat v }) := rfl

theorem admittedAccess_loadPayload (s : State) (bytes : List Byte) :
    admittedAccess s (.loadPayload bytes) =
      if payloadFits bytes then .next (s.withUnit (loadPayload s.unit bytes)) else .refused .payloadTooLong := rfl

theorem admittedAccess_writeTarget (s : State) (i : Nat) (v : Word32) :
    admittedAccess s (.writeTarget i v) = .next (s.withTargets (writeTargetWord s.targets s.unit.binding i v)) := rfl

theorem admittedAccess_gap (s : State) (ops : List CacheOp) :
    admittedAccess s (.gap ops) = .next (s.withGapOps (s.gapOps ++ ops)) := rfl

theorem admittedAccess_reset (s : State) : admittedAccess s .reset = if allIdle s then .next (resetAll s) else .refused .commandInProgress := rfl

theorem admittedAccess_select (s : State) (k : Nat) : admittedAccess s (.select k) = selectUnit s k := rfl

theorem admittedAccess_cmd (s : State) (w : Word32) :
    admittedAccess s (.cmd w) = exec (decodeWord (dispatchWord (dispatchFmt s.unit) w)) (issue s w) := rfl

theorem admittedAccess_bindTarget (s : State) (b : Nat) :
    admittedAccess s (.bindTarget b) = .next (s.withUnit { s.unit with binding := b }) := rfl

theorem admittedAccess_start (s : State) (w : Word32) :
    admittedAccess s (.start w) =
      if w = 0 then startDecode (dispatchFmt s.unit) (issue s 0)
      else exec (decodeWord (dispatchWord (dispatchFmt s.unit) w)) (issue s w) := by
  simp only [admittedAccess, startCommand, fetchCommand] <;> split <;> simp_all

theorem admittedAccess_proceed (s : State) (p : Progress) : admittedAccess s (.proceed p) = .next (s.proceed p) := rfl

/-- A host read has no effect, or is refused for want of a value. -/
theorem admittedAccess_read (s : State) (q : HostReadable) :
    admittedAccess s (.read q) = .next s ∨
    ∃ i, q = .blkOut i ∧ s.unit.blkOut.get i = none ∧ admittedAccess s (.read q) = .refused .blkOutNoValue := by
  cases q with
  | blkOut i =>
    by_cases h : s.unit.blkOut.get i = none
    · exact .inr ⟨i, rfl, h, if_pos h⟩
    · exact .inl (if_neg h)
  | _ => exact .inl rfl

/-- A container load loads an accepted container, changes nothing for a rejected one, or is refused. -/
theorem admittedAccess_loadContainer (s : State) (buffer : Option (List Byte)) :
    (∃ h, parseContainer s.params buffer = .ok h ∧
      admittedAccess s (.loadContainer buffer) =
        if payloadFits h.payload then .next (s.withUnit (loadHeader s.unit h)) else .refused .payloadTooLong) ∨
    ∃ e, parseContainer s.params buffer = .error e ∧ admittedAccess s (.loadContainer buffer) = .next s := by
  rcases hp : parseContainer s.params buffer with e | h
  · exact .inr ⟨e, rfl, by simp only [admittedAccess, hp]⟩
  · exact .inl ⟨h, rfl, by simp only [admittedAccess, hp]⟩

/-! ### The progress of a command -/

@[simp] theorem insertNow_unit (s : State) : s.insertNow.unit = s.unit.withInsertion none := by
  unfold State.insertNow
  split
  · next h => simp only [DecodeUnit.withInsertion, ← h]
  · rfl

@[simp] theorem insertNow_targets (s : State) : s.insertNow.targets = s.targets := by
  unfold State.insertNow; split <;> rfl

@[simp] theorem insertNow_peers (s : State) : s.insertNow.peers = s.peers := by unfold State.insertNow; split <;> rfl

@[simp] theorem insertNow_unitId (s : State) : s.insertNow.unitId = s.unitId := by unfold State.insertNow; split <;> rfl

@[simp] theorem insertNow_params (s : State) : s.insertNow.params = s.params := by unfold State.insertNow; split <;> rfl

@[simp] theorem insertNow_gapOps (s : State) : s.insertNow.gapOps = s.gapOps := by unfold State.insertNow; split <;> rfl

@[simp] theorem insertNow_host (s : State) : s.insertNow.host = s.host := by unfold State.insertNow; split <;> rfl

/-- The cache after the insertion, where there is one to make (R263). -/
theorem insertNow_cache (s : State) :
    s.insertNow.cache = match s.unit.insertion with
      | none => s.cache
      | some e => cacheInsert s.cache e.1 e.2 := by
  unfold State.insertNow; split <;> simp_all

theorem insertNow_cases (s : State) :
    (s.unit.insertion = none ∧ s.insertNow = s) ∨
    ∃ e, s.unit.insertion = some e ∧
      s.insertNow = (s.withCache (cacheInsert s.cache e.1 e.2)).withUnit (s.unit.withInsertion none) := by
  unfold State.insertNow
  split
  · next h => exact .inl ⟨h, rfl⟩
  · next e h => exact .inr ⟨e, h, rfl⟩

/-- One pixel write is made, or there is none with that number (R57, R62). -/
theorem writeNow_cases (s : State) (n : Nat) :
    (s.unit.writes[n]? = none ∧ s.writeNow n = s) ∨
    ∃ w, s.unit.writes[n]? = some w ∧
      s.writeNow n = (s.withTargets (writeTargetWord s.targets s.unit.binding w.1 w.2)).withUnit
        (s.unit.withWrites (s.unit.writes.eraseIdx n)) := by
  unfold State.writeNow
  split
  · next h => exact .inl ⟨h, rfl⟩
  · next w h => exact .inr ⟨w, h, rfl⟩

/-- What a step of a command in progress can do, said once (R62, R63, R265). -/
theorem proceed_cases (s : State) (p : Progress) :
    (s.unit.completion = none ∧ s.proceed p = s) ∨
    ∃ k, s.unit.completion = some k ∧
      ((p = .insert ∧ s.proceed p = s.insertNow) ∨ (∃ n, p = .pixel n ∧ s.proceed p = s.insertNow.writeNow n) ∨
        (p = .finish ∧ s.proceed p = s.insertNow.writeRest k)) := by
  rcases h : s.unit.completion with _ | k
  · exact .inl ⟨rfl, by simp [State.proceed, h]⟩
  · refine .inr ⟨k, rfl, ?_⟩
    cases p with
    | insert => exact .inl ⟨rfl, by simp [State.proceed, h]⟩
    | pixel n => exact .inr (.inl ⟨n, rfl, by simp [State.proceed, h]⟩)
    | finish => exact .inr (.inr ⟨rfl, by simp [State.proceed, h]⟩)

/-- The machine after a command in progress is finished, field by field. -/
theorem writeRest_eq (s : State) (k : Completion) :
    s.writeRest k = { s with
      targets := writeTargets s.targets s.unit.binding s.unit.writes
      unit := s.unit.complete (some true) k } := rfl

/-! ### The choice of a unit -/

theorem findPeer_mem {peers : List (Nat × DecodeUnit)} {k : Nat} {u : DecodeUnit} (h : findPeer peers k = some u) :
    (k, u) ∈ peers := by
  induction peers with
  | nil => cases h
  | cons p rest ih =>
    obtain ⟨n, v⟩ := p
    simp only [findPeer] at h
    split at h
    · next hn => simp only [Option.some.injEq] at h; subst hn h; exact List.mem_cons_self
    · exact List.mem_cons_of_mem _ (ih h)

theorem mem_swapPeer {peers : List (Nat × DecodeUnit)} {k n : Nat} {u : DecodeUnit} {p : Nat × DecodeUnit}
    (h : p ∈ swapPeer peers k n u) : p = (n, u) ∨ p ∈ peers := by
  induction peers with
  | nil => cases h
  | cons q rest ih =>
    obtain ⟨m, v⟩ := q
    simp only [swapPeer] at h
    split at h
    · rcases List.mem_cons.mp h with h | h
      · exact .inl h
      · exact .inr (List.mem_cons_of_mem _ h)
    · rcases List.mem_cons.mp h with h | h
      · exact .inr (h ▸ List.mem_cons_self)
      · exact (ih h).imp id (List.mem_cons_of_mem _)

/-- The numbers of the units are the same numbers after the host turns to another unit. -/
theorem swapPeer_perm {peers : List (Nat × DecodeUnit)} {k n : Nat} {u v : DecodeUnit} (h : findPeer peers k = some v) :
    (k :: (swapPeer peers k n u).map Prod.fst).Perm (n :: peers.map Prod.fst) := by
  induction peers with
  | nil => cases h
  | cons q rest ih =>
    obtain ⟨m, w⟩ := q
    simp only [findPeer] at h
    simp only [swapPeer]
    split
    · next hm => subst hm; exact List.Perm.swap _ _ _
    · next hm =>
      rw [if_neg hm] at h
      exact (List.Perm.swap _ _ _).trans ((List.Perm.cons _ (ih h)).trans (List.Perm.swap _ _ _))

/-- The host turns to the unit it names, or names none. -/
theorem selectUnit_cases (s : State) (k : Nat) :
    (k = s.unitId ∧ selectUnit s k = .next s) ∨
    (k ≠ s.unitId ∧ ∃ u, findPeer s.peers k = some u ∧
      selectUnit s k = .next { s with unitId := k, unit := u, peers := swapPeer s.peers k s.unitId s.unit }) ∨
    (k ≠ s.unitId ∧ findPeer s.peers k = none ∧ selectUnit s k = .refused .noSuchUnit) := by
  by_cases hk : k = s.unitId
  · exact .inl ⟨hk, if_pos hk⟩
  · rcases hf : findPeer s.peers k with _ | u
    · exact .inr (.inr ⟨hk, rfl, by simp [selectUnit, hk, hf]⟩)
    · exact .inr (.inl ⟨hk, u, rfl, by simp [selectUnit, hk, hf]⟩)

end Sys2Proof.Machine
end

