-- ==== Sys2Proof/Laws/PerInstr.lean ====
section
/-! SUPPORT. Facts about each instruction as syntax, one lemma per constructor. -/

namespace Sys2Proof.Laws

/-- A mask over `CW` acts on the two halves on their own. -/
theorem dispatchWord_and (a c e : Word64) (b d f : Word32) (h1 : a &&& c = e) (h2 : b &&& d = f) :
    dispatchWord a b &&& dispatchWord c d = dispatchWord e f := by
  subst h1 h2
  exact BitVec.and_append (x₁ := a) (x₂ := c) (y₁ := b) (y₂ := d)

/-- The encoding of an instruction matches its row of opcode_table.json: `CW & mask = match` (30_encoding.md R71). -/
def RowOfEncoding.Statement (i : Instr) : Prop := encode i &&& rowMask i = rowMatch i

theorem RowOfEncoding.decodeDxt1 : RowOfEncoding.Statement .decodeDxt1 := by
  unfold RowOfEncoding.Statement; decide

theorem RowOfEncoding.decodeDxt3 : RowOfEncoding.Statement .decodeDxt3 := by
  unfold RowOfEncoding.Statement; decide

theorem RowOfEncoding.decodeDxt5 : RowOfEncoding.Statement .decodeDxt5 := by
  unfold RowOfEncoding.Statement; decide

theorem RowOfEncoding.decodeEtc1 : RowOfEncoding.Statement .decodeEtc1 := by
  unfold RowOfEncoding.Statement; decide

theorem RowOfEncoding.decodeEtc2Rgb : RowOfEncoding.Statement .decodeEtc2Rgb := by
  unfold RowOfEncoding.Statement; decide

theorem RowOfEncoding.decodeEtc2Rgba : RowOfEncoding.Statement .decodeEtc2Rgba := by
  unfold RowOfEncoding.Statement; decide

theorem RowOfEncoding.decodeEtc2RgbA1 : RowOfEncoding.Statement .decodeEtc2RgbA1 := by
  unfold RowOfEncoding.Statement; decide

theorem RowOfEncoding.decodePvrtc2bppRgb : RowOfEncoding.Statement .decodePvrtc2bppRgb := by
  unfold RowOfEncoding.Statement; decide

theorem RowOfEncoding.decodePvrtc2bppRgba : RowOfEncoding.Statement .decodePvrtc2bppRgba := by
  unfold RowOfEncoding.Statement; decide

theorem RowOfEncoding.decodePvrtc4bppRgb : RowOfEncoding.Statement .decodePvrtc4bppRgb := by
  unfold RowOfEncoding.Statement; decide

theorem RowOfEncoding.decodePvrtc4bppRgba : RowOfEncoding.Statement .decodePvrtc4bppRgba := by
  unfold RowOfEncoding.Statement; decide

theorem RowOfEncoding.decodeFallbackPvrtcII2bpp : RowOfEncoding.Statement .decodeFallbackPvrtcII2bpp := by
  unfold RowOfEncoding.Statement; decide

theorem RowOfEncoding.decodeFallbackPvrtcII4bpp : RowOfEncoding.Statement .decodeFallbackPvrtcII4bpp := by
  unfold RowOfEncoding.Statement; decide

theorem RowOfEncoding.decodeFallbackDxt2 : RowOfEncoding.Statement .decodeFallbackDxt2 := by
  unfold RowOfEncoding.Statement; decide

theorem RowOfEncoding.decodeFallbackDxt4 : RowOfEncoding.Statement .decodeFallbackDxt4 := by
  unfold RowOfEncoding.Statement; decide

theorem RowOfEncoding.decodeFallbackBc4 : RowOfEncoding.Statement .decodeFallbackBc4 := by
  unfold RowOfEncoding.Statement; decide

theorem RowOfEncoding.decodeFallbackBc5 : RowOfEncoding.Statement .decodeFallbackBc5 := by
  unfold RowOfEncoding.Statement; decide

theorem RowOfEncoding.decodeFallbackBc6 : RowOfEncoding.Statement .decodeFallbackBc6 := by
  unfold RowOfEncoding.Statement; decide

theorem RowOfEncoding.decodeFallbackBc7 : RowOfEncoding.Statement .decodeFallbackBc7 := by
  unfold RowOfEncoding.Statement; decide

theorem RowOfEncoding.decodeFallbackUyvy : RowOfEncoding.Statement .decodeFallbackUyvy := by
  unfold RowOfEncoding.Statement; decide

theorem RowOfEncoding.decodeFallbackYuy2 : RowOfEncoding.Statement .decodeFallbackYuy2 := by
  unfold RowOfEncoding.Statement; decide

theorem RowOfEncoding.decodeFallbackBw1bpp : RowOfEncoding.Statement .decodeFallbackBw1bpp := by
  unfold RowOfEncoding.Statement; decide

theorem RowOfEncoding.decodeFallbackR9g9b9e5 : RowOfEncoding.Statement .decodeFallbackR9g9b9e5 := by
  unfold RowOfEncoding.Statement; decide

theorem RowOfEncoding.decodeFallbackRgbg8888 : RowOfEncoding.Statement .decodeFallbackRgbg8888 := by
  unfold RowOfEncoding.Statement; decide

theorem RowOfEncoding.decodeFallbackGrgb8888 : RowOfEncoding.Statement .decodeFallbackGrgb8888 := by
  unfold RowOfEncoding.Statement; decide

theorem RowOfEncoding.decodeFallbackEacR11 : RowOfEncoding.Statement .decodeFallbackEacR11 := by
  unfold RowOfEncoding.Statement; decide

theorem RowOfEncoding.decodeFallbackEacRg11 : RowOfEncoding.Statement .decodeFallbackEacRg11 := by
  unfold RowOfEncoding.Statement; decide

theorem RowOfEncoding.decodeFallbackCustom (fmt : Word64) : RowOfEncoding.Statement (.decodeFallbackCustom fmt)
    := dispatchWord_and fmt 0 0 0 0xffffffff 0 BitVec.and_zero (by decide)

theorem RowOfEncoding.decodeUnsupported (code : Word32) : RowOfEncoding.Statement (.decodeUnsupported code)
    := by
  refine dispatchWord_and ((0 : Word32) ++ code) 0xffffffff00000000 0 0 0xffffffff 0 ?_ (by decide)
  show ((0 : Word32) ++ code) &&& ((0xffffffff : Word32) ++ (0 : Word32)) = (0 : Word32) ++ (0 : Word32)
  rw [BitVec.and_append]
  simp

theorem RowOfEncoding.blockDxt1 : RowOfEncoding.Statement .blockDxt1 := by
  unfold RowOfEncoding.Statement; decide

theorem RowOfEncoding.blockDxt3 : RowOfEncoding.Statement .blockDxt3 := by
  unfold RowOfEncoding.Statement; decide

theorem RowOfEncoding.blockDxt5 : RowOfEncoding.Statement .blockDxt5 := by
  unfold RowOfEncoding.Statement; decide

theorem RowOfEncoding.blockEtc1 : RowOfEncoding.Statement .blockEtc1 := by
  unfold RowOfEncoding.Statement; decide

theorem RowOfEncoding.blockEtc2Rgb : RowOfEncoding.Statement .blockEtc2Rgb := by
  unfold RowOfEncoding.Statement; decide

theorem RowOfEncoding.blockEtc2RgbA1 : RowOfEncoding.Statement .blockEtc2RgbA1 := by
  unfold RowOfEncoding.Statement; decide

theorem RowOfEncoding.blockEtc2Rgba : RowOfEncoding.Statement .blockEtc2Rgba := by
  unfold RowOfEncoding.Statement; decide

theorem RowOfEncoding.blockPvrtc2bppRgb : RowOfEncoding.Statement .blockPvrtc2bppRgb := by
  unfold RowOfEncoding.Statement; decide

theorem RowOfEncoding.blockPvrtc2bppRgba : RowOfEncoding.Statement .blockPvrtc2bppRgba := by
  unfold RowOfEncoding.Statement; decide

theorem RowOfEncoding.blockPvrtc4bppRgb : RowOfEncoding.Statement .blockPvrtc4bppRgb := by
  unfold RowOfEncoding.Statement; decide

theorem RowOfEncoding.blockPvrtc4bppRgba : RowOfEncoding.Statement .blockPvrtc4bppRgba := by
  unfold RowOfEncoding.Statement; decide

theorem RowOfEncoding.blockIllegal (fmt : Word64) : RowOfEncoding.Statement (.blockIllegal fmt)
    := dispatchWord_and fmt 0 0 1 0xffffffff 1 BitVec.and_zero (by decide)

theorem RowOfEncoding.flush : RowOfEncoding.Statement .flush := by
  unfold RowOfEncoding.Statement; decide

theorem RowOfEncoding.illegalCmd (cmd : Word32) : RowOfEncoding.Statement (.illegalCmd cmd) := by
  unfold RowOfEncoding.Statement rowMask rowMatch; exact BitVec.and_zero

end Sys2Proof.Laws
end

