-- ==== Sys2Proof/Tests/Slice0.lean ====
section
/-! SUPPORT. The model's own tests. The expected values are those of spec/95_test_vectors.md and of the worked examples of
the rules; the name of each vector stands in the docstring. The second half gives, for each statement with hypotheses, a
concrete state and operands that meet them. -/

namespace Sys2Proof.Tests

open Sys2Proof Sys2Proof.Machine

/-! ## Well-formedness -/

/-- Each condition of WellFormed refuses an ill-formed term: a named format as CUSTOM, a code with a row as UNSUPPORTED,
a format with a datapath as BLOCK.ILLEGAL, and the three legal words as ILLEGAL.CMD. -/
theorem test_ill_formed_terms_are_refused :
    (Instr.decodeFallbackCustom 0xffffffff).wellFormed = false ∧ (Instr.decodeUnsupported 26).wellFormed = false ∧
    (Instr.blockIllegal 24).wellFormed = false ∧ (Instr.blockIllegal 0).wellFormed = false ∧
    (Instr.illegalCmd 0).wellFormed = false ∧ (Instr.illegalCmd 1).wellFormed = false ∧
    (Instr.illegalCmd 2).wellFormed = false := by decide

/-- The least operands that are well formed. -/
theorem test_boundary_terms_are_well_formed :
    (Instr.decodeFallbackCustom 0x100000000).wellFormed = true ∧ (Instr.decodeUnsupported 27).wellFormed = true ∧
    (Instr.blockIllegal 25).wellFormed = true ∧ (Instr.blockIllegal 4).wellFormed = true ∧
    (Instr.illegalCmd 3).wellFormed = true := by decide

/-! ## Decoding: dispatch words written out from opcode_table.json -/

theorem test_words_dxt_decodes :
    decodeWord 0x000000000000000700000000 = .decodeDxt1 ∧
    decodeWord 0x000000000000000900000000 = .decodeDxt3 ∧
    decodeWord 0x000000000000000b00000000 = .decodeDxt5 := by decide

theorem test_words_etc_decodes :
    decodeWord 0x000000000000000600000000 = .decodeEtc1 ∧
    decodeWord 0x000000000000001600000000 = .decodeEtc2Rgb ∧
    decodeWord 0x000000000000001700000000 = .decodeEtc2Rgba ∧
    decodeWord 0x000000000000001800000000 = .decodeEtc2RgbA1 := by decide

theorem test_words_pvrtc_decodes :
    decodeWord 0x000000000000000000000000 = .decodePvrtc2bppRgb ∧
    decodeWord 0x000000000000000100000000 = .decodePvrtc2bppRgba ∧
    decodeWord 0x000000000000000200000000 = .decodePvrtc4bppRgb ∧
    decodeWord 0x000000000000000300000000 = .decodePvrtc4bppRgba := by decide

theorem test_words_fallback_decodes :
    decodeWord 0x000000000000000400000000 = .decodeFallbackPvrtcII2bpp ∧
    decodeWord 0x000000000000000500000000 = .decodeFallbackPvrtcII4bpp ∧
    decodeWord 0x000000000000000800000000 = .decodeFallbackDxt2 ∧
    decodeWord 0x000000000000000a00000000 = .decodeFallbackDxt4 ∧
    decodeWord 0x000000000000000c00000000 = .decodeFallbackBc4 ∧
    decodeWord 0x000000000000000d00000000 = .decodeFallbackBc5 ∧
    decodeWord 0x000000000000000e00000000 = .decodeFallbackBc6 ∧
    decodeWord 0x000000000000000f00000000 = .decodeFallbackBc7 ∧
    decodeWord 0x000000000000001000000000 = .decodeFallbackUyvy ∧
    decodeWord 0x000000000000001100000000 = .decodeFallbackYuy2 ∧
    decodeWord 0x000000000000001200000000 = .decodeFallbackBw1bpp ∧
    decodeWord 0x000000000000001300000000 = .decodeFallbackR9g9b9e5 ∧
    decodeWord 0x000000000000001400000000 = .decodeFallbackRgbg8888 ∧
    decodeWord 0x000000000000001500000000 = .decodeFallbackGrgb8888 ∧
    decodeWord 0x000000000000001900000000 = .decodeFallbackEacR11 ∧
    decodeWord 0x000000000000001a00000000 = .decodeFallbackEacRg11 := by decide

theorem test_words_dxt_blocks :
    decodeWord 0x000000000000000700000001 = .blockDxt1 ∧
    decodeWord 0x000000000000000900000001 = .blockDxt3 ∧
    decodeWord 0x000000000000000b00000001 = .blockDxt5 := by decide

theorem test_words_etc_blocks :
    decodeWord 0x000000000000000600000001 = .blockEtc1 ∧
    decodeWord 0x000000000000001600000001 = .blockEtc2Rgb ∧
    decodeWord 0x000000000000001800000001 = .blockEtc2RgbA1 ∧
    decodeWord 0x000000000000001700000001 = .blockEtc2Rgba := by decide

theorem test_words_pvrtc_blocks :
    decodeWord 0x000000000000000000000001 = .blockPvrtc2bppRgb ∧
    decodeWord 0x000000000000000100000001 = .blockPvrtc2bppRgba ∧
    decodeWord 0x000000000000000200000001 = .blockPvrtc4bppRgb ∧
    decodeWord 0x000000000000000300000001 = .blockPvrtc4bppRgba := by decide

/-- CUSTOM keeps all 64 bits of `FMT`, also with a low half that names a format. -/
theorem test_words_custom :
    decodeWord 0x000000010000000700000000 = .decodeFallbackCustom 0x0000000100000007 ∧
    decodeWord 0xffffffffffffffff00000000 = .decodeFallbackCustom 0xffffffffffffffff := by decide

theorem test_words_unsupported :
    decodeWord 0x000000000000001b00000000 = .decodeUnsupported 27 ∧
    decodeWord 0x00000000ffffffff00000000 = .decodeUnsupported 0xffffffff := by decide

theorem test_words_block_illegal :
    decodeWord 0x000000000000000c00000001 = .blockIllegal 12 ∧
    decodeWord 0x000000010000000700000001 = .blockIllegal 0x0000000100000007 := by decide

theorem test_words_flush :
    decodeWord 0x000000000000000000000002 = .flush ∧ decodeWord 0x000000000000000700000002 = .flush := by decide

/-- G3 and G4: a reserved `OP`, and `OP = 2` with a bit of `MBZ` set. -/
theorem test_words_illegal_cmd :
    decodeWord 0x000000000000000000000003 = .illegalCmd 3 ∧ decodeWord 0x000000000000000000000012 = .illegalCmd 0x12 ∧
    decodeWord 0x000000000000000780000000 = .illegalCmd 0x80000000 := by decide

/-- A table word of FLUSH, placed, decodes and runs as the first instruction after reset. -/
theorem test_table_word_runs :
    decodeTableWord 96 2 = some .flush ∧
    fetchCommand (State.reset.withFetchWord 96 0x000000000000000700000001) 1 = .blockDxt1 := by decide

/-! ## Helpers -/

/-- A unit whose `FMT` and first latch bytes are written. -/
def blockUnit (fmt : Word64) (bytes : List Byte) : DecodeUnit :=
  { resetUnit [] 0 with fmt := some fmt, blkIn := writeLatch (Vector.replicate 32 none) 0 bytes }

/-- A machine over one unit. -/
def machine (u : DecodeUnit) : State := { State.reset with unit := u }

/-- The same with `ETC_ROUTED`. -/
def routed (u : DecodeUnit) : State :=
  { State.reset with unit := u, params := { etcRouted := true, knownFormats := List.range 27 } }

/-- The machine after one host access, where the step answers a next state. -/
def after (s : State) (e : HostEvent) : Option State :=
  match step { s with host := [e] } with
  | .next t => some t
  | .fault _ => none
  | .refused _ => none

/-- `RESULT`, `STATUS`, `FAULT_INFO` and `FAULT_SEEN` after one host access. -/
def reportAfter (s : State) (e : HostEvent) : Option (Bool × Byte × Byte × Bool) :=
  (after s e).map fun t => (t.unit.result, t.unit.status, t.unit.faultInfo, t.unit.faultSeen)

/-- The first `n` words of `BLK_OUT` after a BLOCK on fresh registers. -/
def tileAfter (n : Nat) (fmt : Word64) (bytes : List Byte) : Option (List (Option Word32)) :=
  (after (machine (blockUnit fmt bytes)) (.cmd 1)).map fun t =>
    (t.unit.blkOut.toList.take n).map fun p => p.map Pixel.pack

/-- A payload memory that holds `bytes` from address 0 on. -/
def payloadOf (bytes : List Byte) : List Host.Cell := Memory.writeFrom [] 0 bytes

/-- A unit set up for a DECODE: the format, the texture size, the region, the target size and the payload. -/
def decodeUnit (fmt : Word64) (texW texH regX regY regW regH tgtW tgtH : Word32) (bytes : List Byte) : DecodeUnit :=
  { resetUnit (payloadOf bytes) 0 with
    fmt := some fmt, texW := some texW, texH := some texH, regX := some regX, regY := some regY, regW := some regW
    regH := some regH, tgtW := some tgtW, tgtH := some tgtH, ctrl := some 3
    payloadLen := some (BitVec.ofNat 32 bytes.length), infoId := some 5 }

/-- The unit's target memory after a DECODE. -/
def targetAfter (s : State) : Option (List (Nat × Word32)) := (after s (.cmd 0)).map fun t => t.target

/-- The bytes of four equal words. -/
def four (word : List Byte) : List Byte := word ++ word ++ word ++ word

/-! ## BLOCK commands -/

/-- D8, the worked example of R120. -/
theorem test_block_dxt1 :
    tileAfter 4 7 [0x00, 0xF8, 0x1F, 0x00, 0xE4, 0xE4, 0xE4, 0xE4] =
      some [some 0xFFFF0000, some 0xFF0000FF, some 0xFFAA0055, some 0xFF5500AA] := by decide

/-- X4: equal endpoints are the three-colour case, and code 3 is transparent black (90_conflicts.md C1). -/
theorem test_block_dxt1_equal_endpoints :
    tileAfter 4 7 [0x00, 0xF8, 0x00, 0xF8, 0xE4, 0xE4, 0xE4, 0xE4] =
      some [some 0xFFFF0000, some 0xFFFF0000, some 0xFFFF0000, some 0] := by decide

/-- D11, the worked example of R121. -/
theorem test_block_dxt3 :
    (tileAfter 16 9
      [0x10, 0x32, 0x54, 0x76, 0x98, 0xBA, 0xDC, 0xFE, 0x00, 0xF8, 0x1F, 0x00, 0x00, 0x00, 0x00, 0x00]).map
      (fun l => l.drop 12) = some [some 0xCCFF0000, some 0xDDFF0000, some 0xEEFF0000, some 0xFFFF0000] := by
  decide

/-- D13: code 3 of a three-colour block is black with the nibble's alpha. -/
theorem test_block_dxt3_code_three :
    tileAfter 1 9
      [0xFF, 0xFF, 0xFF, 0xFF, 0xFF, 0xFF, 0xFF, 0xFF, 0x00, 0x00, 0xFF, 0xFF, 0xFF, 0xFF, 0xFF, 0xFF] =
      some [some 0xFF000000] := by decide

/-- D14, the worked example of R122. -/
theorem test_block_dxt5 :
    tileAfter 8 11
      [0xFF, 0x00, 0x88, 0xC6, 0xFA, 0x88, 0xC6, 0xFA, 0xFF, 0xFF, 0x00, 0x00, 0x00, 0x00, 0x00, 0x00] =
      some [some 0xFFFFFFFF, some 0x00FFFFFF, some 0xDAFFFFFF, some 0xB6FFFFFF, some 0x91FFFFFF, some 0x6DFFFFFF,
        some 0x48FFFFFF, some 0x24FFFFFF] := by decide

/-- D16: the five-step alpha palette with its fixed 0 and 255. -/
theorem test_block_dxt5_five_steps :
    tileAfter 8 11
      [0x00, 0xFF, 0x88, 0xC6, 0xFA, 0x88, 0xC6, 0xFA, 0x00, 0xF8, 0x00, 0xF8, 0x00, 0x00, 0x00, 0x00] =
      some [some 0x00FF0000, some 0xFFFF0000, some 0x33FF0000, some 0x66FF0000, some 0x99FF0000, some 0xCCFF0000,
        some 0x00FF0000, some 0xFFFF0000] := by decide

/-- E1, the worked example of R160: the individual mode, both clamps. -/
theorem test_block_etc1 :
    tileAfter 16 6 [0xF0, 0x84, 0x0F, 0x1C, 0xCC, 0xCC, 0xAA, 0xAA] =
      some [some 0xFFFF8A02, some 0xFFFF8A02, some 0xFF2F73FF, some 0xFF2F73FF, some 0xFFFF9008, some 0xFFFF9008,
        some 0xFFB7FBFF, some 0xFFB7FBFF, some 0xFFFD8600, some 0xFFFD8600, some 0xFF0015D0, some 0xFF0015D0,
        some 0xFFF78000, some 0xFFF78000, some 0xFF000048, some 0xFF000048] := by decide

/-- E5: the planar mode. -/
theorem test_block_etc2_rgb_planar :
    tileAfter 16 22 [0x61, 0x00, 0xFA, 0xFF, 0x00, 0x00, 0x1F, 0xFF] =
      some [some 0xFFC38175, some 0xFFD26158, some 0xFFE1413B, some 0xFFF0201D, some 0xFF92A198, some 0xFFA1807A,
        some 0xFFB0605D, some 0xFFBF4040, some 0xFF62C0BA, some 0xFF71A09D, some 0xFF808080, some 0xFF8F5F62,
        some 0xFF31E0DD, some 0xFF40BFBF, some 0xFF4F9FA2, some 0xFF5E7F85] := by decide

/-- E8 and E10, column 0: red is tested before green (T), and the H mode's computed distance bit with `v1 < v2`. -/
theorem test_block_etc2_rgb_t_and_h :
    (tileAfter 16 22 [0xFB, 0xF9, 0x00, 0xF7, 0xCC, 0xCC, 0xAA, 0xAA]).map
      (fun l => [l[0]?, l[4]?, l[8]?, l[12]?]) =
      some [some (some 0xFFFFFF99), some (some 0xFF1010FF), some (some 0xFF0000FF), some (some 0xFF0000EF)] ∧
    (tileAfter 16 22 [0x22, 0x06, 0x44, 0x43, 0xCC, 0xCC, 0xAA, 0xAA]).map
      (fun l => [l[0]?, l[4]?, l[8]?, l[12]?]) =
      some [some (some 0xFF4F4F4F), some (some 0xFF393939), some (some 0xFF939393), some (some 0xFF7D7D7D)] := by
  decide

/-- E7, the worked example of R163: the alpha of each pixel, and the colour of pixel (0, 0). -/
theorem test_block_etc2_rgba :
    (tileAfter 16 23
      [0x80, 0x2D, 0x05, 0x39, 0x77, 0x05, 0x39, 0x77, 0x83, 0xFC, 0x00, 0x77, 0xCC, 0xCC, 0xAA, 0xAA]).map
      (fun l => (l.take 1, l.map fun p => p.map fun w => w.toNat / 2 ^ 24)) =
      some ([some 0x7E91FF0D], [some 126, some 128, some 126, some 128, some 124, some 130, some 124, some 130, some 122,
        some 132, some 122, some 132, some 108, some 146, some 108, some 146]) := by decide

/-- E15 and E16: the alpha clamps at both ends, and `EMUL = 0` leaves the base. -/
theorem test_block_etc2_rgba_alpha :
    (tileAfter 2 23 [0xFA, 0xF0, 0xFF, 0xFF, 0xFF, 0xFF, 0xFF, 0xFF, 0x83, 0xFC, 0x00, 0x77, 0xCC, 0xCC, 0xAA, 0xAA]) =
      some [some 0xFF91FF0D, some 0xFF91FF0D] ∧
    (tileAfter 2 23 [0x05, 0xF0, 0x6D, 0xB6, 0xDB, 0x6D, 0xB6, 0xDB, 0x83, 0xFC, 0x00, 0x77, 0xCC, 0xCC, 0xAA, 0xAA]) =
      some [some 0x0091FF0D, some 0x0091FF0D] ∧
    (tileAfter 2 23 [0x4D, 0x00, 0x05, 0x39, 0x77, 0x05, 0x39, 0x77, 0x83, 0xFC, 0x00, 0x77, 0xCC, 0xCC, 0xAA, 0xAA]) =
      some [some 0x4D91FF0D, some 0x4D91FF0D] := by decide

/-- E6, the worked example of R162. -/
theorem test_block_etc2_rgb_a1 :
    (tileAfter 16 24 [0x83, 0xFC, 0x00, 0x75, 0xCC, 0xCC, 0xAA, 0xAA]).map
      (fun l => [l[0]?, l[4]?, l[8]?, l[12]?]) =
      some [some (some 0xFF84FF00), some (some 0xFFAEFF2A), some (some 0), some (some 0xFF4C8E00)] := by decide

/-- E12: the block of E1 under code 24 takes the differential path. -/
theorem test_block_etc2_rgb_a1_never_individual :
    tileAfter 16 24 [0xF0, 0x84, 0x0F, 0x1C, 0xCC, 0xCC, 0xAA, 0xAA] =
      some [some 0xFFF78408, some 0xFFF78408, some 0xFFF76300, some 0xFFF76300, some 0xFFFF8C10, some 0xFFFF8C10,
        some 0xFFFFFFB7, some 0xFFFFFFB7, some 0, some 0, some 0, some 0, some 0xFFEF7C00, some 0xFFEF7C00,
        some 0xFF400000, some 0xFF400000] := by decide

set_option maxRecDepth 8192 in
/-- V7 and V9: the horizontal mode, and the mode that averages four neighbours. -/
theorem test_block_pvrtc_2bpp_rgb :
    (tileAfter 32 0 (four [0xFF, 0x00, 0xEF, 0x00, 0x01, 0x80, 0xFF, 0xFF])).map (fun l => (l.drop 6).take 4) =
      some [some 0xFFFFFFFF, some 0xFFFFFFFF, some 0xFF000000, some 0xFF000000] ∧
    (tileAfter 32 0 (four [0xFE, 0x00, 0xFF, 0x00, 0x01, 0x80, 0xFF, 0xFF])).map (fun l => (l.drop 6).take 4) =
      some [some 0xFFFFFFFF, some 0xFF7F7F7F, some 0xFF7F7F7F, some 0xFF000000] := by decide

set_option maxRecDepth 8192 in
/-- V8: the vertical mode. -/
theorem test_block_pvrtc_2bpp_vertical :
    (tileAfter 32 0 (four [0xFF, 0x00, 0xFF, 0x00, 0x01, 0x80, 0xFF, 0xFF])).map (fun l => (l.drop 6).take 4) =
      some [some 0xFFFFFFFF, some 0xFF000000, some 0xFFFFFFFF, some 0xFF000000] := by decide

set_option maxRecDepth 8192 in
/-- V2, the worked example of R201. -/
theorem test_block_pvrtc_2bpp_rgba :
    (tileAfter 32 1 (four [0xFF, 0xFF, 0xFF, 0xFF, 0x1E, 0x80, 0x00, 0x7C])).map (fun l => [l[0]?, l[31]?]) =
      some [some (some 0xEECE0000), some (some 0xEECE0000)] := by decide

set_option maxRecDepth 8192 in
/-- V5 and V6: the weights of the two 4bpp tables, punch-through among them. -/
theorem test_block_pvrtc_4bpp_weights :
    tileAfter 4 2 (four [0xE4, 0xE4, 0xE4, 0xE4, 0x00, 0x80, 0xFF, 0xFF]) =
      some [some 0xFF9F9F9F, some 0xFFFFFFFF, some 0xFF000000, some 0xFF5F5F5F] ∧
    tileAfter 4 2 (four [0xE4, 0xE4, 0xE4, 0xE4, 0x01, 0x80, 0xFF, 0xFF]) =
      some [some 0x007F7F7F, some 0xFFFFFFFF, some 0xFF000000, some 0xFF7F7F7F] := by decide

set_option maxRecDepth 8192 in
/-- V10: the bilinear ramp; `BLK_OUT[16]` keeps its lack of a value. -/
theorem test_block_pvrtc_4bpp_ramp :
    tileAfter 17 2 ([0x00, 0x00, 0x00, 0x00, 0x00, 0xFC, 0x00, 0x80] ++ [0x00, 0x00, 0x00, 0x00, 0x00, 0x80, 0x00, 0x80] ++
      [0x00, 0x00, 0x00, 0x00, 0x00, 0x80, 0x00, 0x80] ++ [0x00, 0x00, 0x00, 0x00, 0x00, 0x80, 0x00, 0x80]) =
      some [some 0xFFFF0000, some 0xFFBF0000, some 0xFF7F0000, some 0xFF3F0000, some 0xFFBF0000, some 0xFF8F0000,
        some 0xFF5F0000, some 0xFF2F0000, some 0xFF7F0000, some 0xFF5F0000, some 0xFF3F0000, some 0xFF1F0000,
        some 0xFF3F0000, some 0xFF2F0000, some 0xFF1F0000, some 0xFF0F0000, none] := by decide

set_option maxRecDepth 8192 in
/-- V4, the worked example of R203. -/
theorem test_block_pvrtc_4bpp_rgba :
    tileAfter 2 3 (four [0x55, 0x55, 0x55, 0x55, 0x1E, 0x80, 0x00, 0xFC]) =
      some [some 0xFF5F009F, some 0xFF5F009F] := by decide

/-- G5, G6, G8 and G9: the order of the checks of a BLOCK. -/
theorem test_block_raises :
    reportAfter State.reset (.cmd 1) = some (false, 7, 1, true) ∧
    reportAfter (machine (blockUnit 12 [])) (.cmd 1) = some (false, 6, 2, true) ∧
    reportAfter (machine (blockUnit 27 [])) (.cmd 1) = some (false, 6, 2, true) ∧
    reportAfter (machine (blockUnit 9 [0, 0, 0, 0, 0, 0, 0, 0])) (.cmd 1) = some (false, 7, 20, true) := by decide

/-! ## The datapath pieces -/

/-- The stored position of R96 as R186 counts it: how many stored positions come before `(x, y)` in raster order. -/
theorem test_stored_index_counts :
    ∀ y, y < 4 → ∀ x, x < 8 → isStored x y = true →
      storedIndex x y = ((List.range (8 * y + x)).filter fun p => isStored (p % 8) (p / 8)).length := by decide

/-- The grids of 95_test_vectors.md section 2.3, row by row. -/
theorem test_twiddle_tables :
    (List.range 4).map (fun y => (List.range 4).map fun x => twiddle 4 4 x y) =
      [[0, 2, 8, 10], [1, 3, 9, 11], [4, 6, 12, 14], [5, 7, 13, 15]] ∧
    (List.range 2).map (fun y => (List.range 4).map fun x => twiddle 4 2 x y) = [[0, 2, 4, 6], [1, 3, 5, 7]] ∧
    (List.range 4).map (fun y => (List.range 2).map fun x => twiddle 2 4 x y) = [[0, 2], [1, 3], [4, 6], [5, 7]] ∧
    (List.range 3).map (fun y => (List.range 3).map fun x => twiddle 3 3 x y) = [[0, 2, 8], [1, 3, 9], [4, 6, 12]] ∧
    (List.range 2).map (fun y => (List.range 3).map fun x => twiddle 3 2 x y) = [[0, 2, 4], [1, 3, 5]] := by
  decide

/-- `PVRTC_NEED` of the same grids. -/
theorem test_pvrtc_need :
    pvrtcNeed 2 2 = 32 ∧ pvrtcNeed 4 4 = 128 ∧ pvrtcNeed 8 2 = 128 ∧ pvrtcNeed 3 3 = 104 ∧ pvrtcNeed 3 2 = 48 ∧
    pvrtcNeed 5 3 = 168 := by decide

/-- The word colours of 95_test_vectors.md section 2.3. -/
theorem test_word_colours :
    colourA 0x801E = ⟨0, 0, 31, 15⟩ ∧ colourA 0x7FFE = ⟨31, 31, 31, 14⟩ ∧ colourA 0x1234 = ⟨4, 6, 9, 2⟩ ∧
    colourB 0xFC000000 = ⟨31, 0, 0, 15⟩ ∧ colourB 0x7FFF0000 = ⟨31, 31, 31, 14⟩ ∧ colourB 0x12340000 = ⟨4, 6, 8, 2⟩ ∧
    colourB 0x7C000000 = ⟨25, 0, 0, 14⟩ := by decide

/-! ## DECODE commands -/

/-- P1, the source's end-to-end example. -/
theorem test_decode_dxt1 :
    targetAfter (machine (decodeUnit 7 4 4 0 0 4 4 4 4 [0x00, 0xF8, 0x1F, 0x00, 0x00, 0x00, 0x00, 0x00])) =
      some ((List.range 16).map fun k => (k, 0xFFFF0000)) ∧
    reportAfter (machine (decodeUnit 7 4 4 0 0 4 4 4 4 [0x00, 0xF8, 0x1F, 0x00, 0x00, 0x00, 0x00, 0x00])) (.cmd 0) =
      some (true, 0, 0, false) := by decide

/-- Q5 under DXT3: one pixel of a 5×5 texture, out of block 3; the payload check wants its last byte. -/
theorem test_decode_dxt3 :
    targetAfter (machine (decodeUnit 9 5 5 4 4 1 1 5 5
      (List.replicate 48 0 ++ [0x0A, 0, 0, 0, 0, 0, 0, 0, 0x00, 0xF8, 0x1F, 0x00, 0x01, 0x00, 0x00, 0x00]))) =
      some [(24, 0xAA0000FF)] ∧
    reportAfter (machine (decodeUnit 9 5 5 4 4 1 1 5 5 (List.replicate 63 0))) (.cmd 0) = some (false, 5, 1, true) := by
  decide

/-- P4: an unaligned region over two blocks; the other words of the target stay. -/
theorem test_decode_dxt5 :
    targetAfter { machine (decodeUnit 11 8 4 3 1 3 2 8 4
      [0xFF, 0x00, 0x88, 0xC6, 0xFA, 0x88, 0xC6, 0xFA, 0xFF, 0xFF, 0x00, 0x00, 0x00, 0x00, 0x00, 0x00,
       0x00, 0xFF, 0x88, 0xC6, 0xFA, 0x88, 0xC6, 0xFA, 0x00, 0xF8, 0x00, 0xF8, 0x00, 0x00, 0x00, 0x00]) with
      targets := [(0, [(10, 0xDEADBEEF), (11, 0xDEADBEEF), (22, 0xDEADBEEF)])] } =
      some [(10, 0xDEADBEEF), (11, 0x24FFFFFF), (12, 0x99FF0000), (13, 0xCCFF0000), (19, 0xB6FFFFFF), (20, 0x00FF0000),
        (21, 0xFFFF0000), (22, 0xDEADBEEF)] := by decide

/-- P5: ETC1 of the block E1, routed, one row; and not routed, where the Fallback filler runs. -/
theorem test_decode_etc1 :
    targetAfter (routed (decodeUnit 6 4 4 0 1 4 1 4 4 [0xF0, 0x84, 0x0F, 0x1C, 0xCC, 0xCC, 0xAA, 0xAA])) =
      some [(4, 0xFFFF9008), (5, 0xFFFF9008), (6, 0xFFB7FBFF), (7, 0xFFB7FBFF)] ∧
    targetAfter (machine (decodeUnit 6 4 4 0 1 4 1 4 4 [])) = some [(4, 0), (5, 0), (6, 0), (7, 0)] := by decide

/-- E5 through the walk: the first row of the block. -/
theorem test_decode_etc2_rgb :
    targetAfter (routed (decodeUnit 22 4 4 0 0 4 1 4 1 [0x61, 0x00, 0xFA, 0xFF, 0x00, 0x00, 0x1F, 0xFF])) =
      some [(0, 0xFFC38175), (1, 0xFFD26158), (2, 0xFFE1413B), (3, 0xFFF0201D)] := by decide

/-- E7 through the walk, pixel (0, 0). -/
theorem test_decode_etc2_rgba :
    targetAfter (routed (decodeUnit 23 4 4 0 0 1 1 1 1
      [0x80, 0x2D, 0x05, 0x39, 0x77, 0x05, 0x39, 0x77, 0x83, 0xFC, 0x00, 0x77, 0xCC, 0xCC, 0xAA, 0xAA])) =
      some [(0, 0x7E91FF0D)] := by decide

/-- E6 through the walk, column 0. -/
theorem test_decode_etc2_rgb_a1 :
    targetAfter (routed (decodeUnit 24 4 4 0 0 1 4 1 4 [0x83, 0xFC, 0x00, 0x75, 0xCC, 0xCC, 0xAA, 0xAA])) =
      some [(0, 0xFF84FF00), (1, 0xFFAEFF2A), (2, 0), (3, 0xFF4C8E00)] := by decide

/-- P3's first row under code 0, and R205's worked example under code 1: the corner of the image. -/
theorem test_decode_pvrtc_2bpp :
    targetAfter (machine (decodeUnit 0 16 8 14 6 5 5 16 8 (four [0xFF, 0x00, 0xEF, 0x00, 0x01, 0x80, 0xFF, 0xFF]))) =
      some [(110, 0xFFFFFFFF), (111, 0xFFFFFFFF), (126, 0xFF000000), (127, 0xFF000000)] ∧
    targetAfter (machine (decodeUnit 1 1 1 0 0 1 1 1 1 (four [0xFF, 0xFF, 0xFF, 0xFF, 0x1E, 0x80, 0x00, 0x7C]))) =
      some [(0, 0xEECE0000)] := by decide

/-- P2, column 0 and row 2 of the wrapped ramp. -/
theorem test_decode_pvrtc_4bpp_rgb :
    let payload : List Byte := [0, 0, 0, 0, 0, 0xFC, 0, 0x80] ++ [0, 0, 0, 0, 0, 0x80, 0, 0x80] ++
      [0, 0, 0, 0, 0, 0x80, 0, 0x80] ++ [0, 0, 0, 0, 0, 0x80, 0, 0x80]
    targetAfter (machine (decodeUnit 2 8 8 0 2 8 1 8 8 payload)) =
      some [(16, 0xFF7F0000), (17, 0xFFBF0000), (18, 0xFFFF0000), (19, 0xFFBF0000), (20, 0xFF7F0000), (21, 0xFF3F0000),
        (22, 0xFF000000), (23, 0xFF3F0000)] ∧
    targetAfter (machine (decodeUnit 2 8 8 7 0 1 8 8 8 payload)) =
      some [(7, 0xFF1F0000), (15, 0xFF2F0000), (23, 0xFF3F0000), (31, 0xFF2F0000), (39, 0xFF1F0000), (47, 0xFF0F0000),
        (55, 0xFF000000), (63, 0xFF0F0000)] := by decide

/-- W1 under code 3: the pixel, the report, and the cache entry with a 1×1 bitmap. -/
theorem test_decode_pvrtc_4bpp_rgba :
    (after (machine (decodeUnit 3 1 1 0 0 1 1 1 1 (four [0x55, 0x55, 0x55, 0x55, 0x1E, 0x80, 0x00, 0xFC]))) (.cmd 0)).map
      (fun t => (t.target, t.unit.status, t.cache)) =
      some ([(0, 0xFF5F009F)], 0,
        [{ key := 5, bitmap := { width := 1, height := 1, pixels := [⟨0x5F, 0x00, 0x9F, 0xFF⟩] } }]) := by decide

/-- W2, W3 and W4: the checks of a PVRTC DECODE in their order. -/
theorem test_decode_pvrtc_raises :
    reportAfter (machine (decodeUnit 2 12 12 0 0 1 1 1 1 (List.replicate 72 0))) (.cmd 0) = some (false, 5, 1, true) ∧
    reportAfter (machine { decodeUnit 2 1 1 0 0 1 1 1 1 (List.replicate 32 0) with infoId := none }) (.cmd 0) =
      some (false, 7, 12, true) ∧
    reportAfter (machine { decodeUnit 2 1 1 0 0 1 1 1 1 [] with infoId := none, payloadLen := none }) (.cmd 0) =
      some (false, 7, 11, true) := by decide

/-- B3: each named format with no decoder clips, fills and reports `STATUS = 3`. -/
theorem test_decode_fallback :
    fallbackDecodes.all (fun p =>
      (after (machine (decodeUnit (encodeFmt p.1) 4 4 2 2 4 4 8 8 [])) (.cmd 0)).map
        (fun t => (t.target, t.unit.result, t.unit.status)) ==
        some ([(18, 0), (19, 0), (26, 0), (27, 0)], true, 3)) = true := by decide

/-- B2: a custom format is filled, whatever its low half names. -/
theorem test_decode_custom :
    targetAfter (machine (decodeUnit 0x0000000100000007 2 2 0 0 2 2 2 2 [])) = some [(0, 0), (1, 0), (2, 0), (3, 0)] := by
  decide

/-- The set-up of Q4 with an empty payload. -/
def q4 : DecodeUnit := decodeUnit 7 8 8 0 0 8 8 8 8 []

/-- Q4c, Q4f and Q4g: the target bounds, and the order of the register reads. -/
theorem test_decode_raises :
    reportAfter (machine { q4 with tgtH := some 7 }) (.cmd 0) = some (false, 5, 2, true) ∧
    reportAfter (machine { q4 with tgtH := none }) (.cmd 0) = some (false, 7, 18, true) ∧
    reportAfter (machine { q4 with texH := none, regX := none }) (.cmd 0) = some (false, 7, 6, true) := by decide

/-- Q4h, Q4i, Q4j and Q4k: the null arguments, the unknown format, and `CTRL`. -/
theorem test_decode_arguments :
    reportAfter (machine { q4 with ctrl := some 2 }) (.cmd 0) = some (false, 4, 0, false) ∧
    reportAfter (machine { q4 with ctrl := some 1, fmt := some 27 }) (.cmd 0) = some (false, 4, 0, false) ∧
    reportAfter (machine { q4 with fmt := some 27 }) (.cmd 0) = some (false, 2, 0, true) ∧
    reportAfter (machine { q4 with ctrl := none }) (.cmd 0) = some (false, 7, 19, true) := by decide

/-- Q2, Q3 and B5: regions outside the texture, with no payload and a target too small. -/
theorem test_decode_empty_region :
    reportAfter (machine { decodeUnit 7 4 4 4 0 4 4 1 1 [] with payloadLen := none }) (.cmd 0) = some (true, 0, 0, false) ∧
    reportAfter (machine (decodeUnit 7 4 4 0xFFFFFFF6 0xFFFFFFF6 5 5 1 1 [])) (.cmd 0) = some (true, 0, 0, false) ∧
    reportAfter (machine (decodeUnit 4 4 4 9 9 1 1 1 1 [])) (.cmd 0) = some (true, 3, 0, false) := by decide

/-! ## FLUSH, illegal words, and the host -/

/-- An entry with an empty bitmap. -/
def entry (key : Word32) : CacheEntry := { key := key, bitmap := { width := 0, height := 0, pixels := [] } }

/-- G2. -/
theorem test_flush :
    (after { State.reset with cache := [entry 5, entry 6] } (.cmd 2)).map (fun t => (t.cache, t.unit.status)) =
      some ([], 0) := by decide

/-- G3 and G4: `RESULT` stays, and the cache is not flushed. -/
theorem test_illegal_cmd :
    (after { machine { resetUnit [] 0 with result := true } with cache := [entry 5] } (.cmd 3)).map
      (fun t => (t.unit.result, t.unit.status, t.unit.faultInfo, t.unit.faultSeen, t.cache)) =
      some (true, 6, 1, true, [entry 5]) ∧
    (after { State.reset with cache := [entry 5] } (.cmd 0x12)).map (fun t => (t.unit.status, t.cache)) =
      some (6, [entry 5]) := by decide

/-- The cache order of R266's examples: a lookup of key 1 spares it, and key 2 is evicted. -/
theorem test_cache_order :
    let full := [1, 2, 3, 4, 5, 6, 7, 8].map entry
    cacheKeys (cacheInsert full 9 (entry 9).bitmap) = [2, 3, 4, 5, 6, 7, 8, 9] ∧
    cacheKeys (cacheInsert (cacheLookup full 1).2 9 (entry 9).bitmap) = [3, 4, 5, 6, 7, 8, 1, 9] := by decide

/-- The container of S-1. -/
def containerBytes : List Byte :=
  [0x50, 0x56, 0x52, 0x03, 0x00, 0x00, 0x00, 0x00, 0x07, 0x00, 0x00, 0x00, 0x00, 0x00, 0x00, 0x00] ++
  [0x00, 0x00, 0x00, 0x00, 0x00, 0x00, 0x00, 0x00, 0x04, 0x00, 0x00, 0x00, 0x04, 0x00, 0x00, 0x00] ++
  [0x01, 0x00, 0x00, 0x00, 0x01, 0x00, 0x00, 0x00, 0x01, 0x00, 0x00, 0x00, 0x01, 0x00, 0x00, 0x00] ++
  [0x00, 0x00, 0x00, 0x00, 0x00, 0xF8, 0x1F, 0x00, 0x00, 0x00, 0x00, 0x00]

/-- S-1 and S-2: the container loads the registers and the payload. -/
theorem test_container_loads :
    (after State.reset (.loadContainer (some containerBytes))).map
      (fun t => (t.unit.fmt, t.unit.texW, t.unit.mipmaps, t.unit.payloadLen, t.unit.payload.map Prod.snd)) =
      some (some 7, some 4, some 1, some 8, [0x00, 0xF8, 0x1F, 0x00, 0x00, 0x00, 0x00, 0x00]) := by decide

/-- What the parser says of a buffer, with the default `KNOWN_FORMATS`. -/
def verdict (b : List Byte) : Option ParseError :=
  match parseContainer Config.defaultParams (some b) with
  | .ok _ => none
  | .error e => some e

/-- S-3: each change of the buffer of S-1 and what the parser says of it. -/
theorem test_container_rejects :
    verdict (containerBytes.set 0 0x51) = some .malformedHeader ∧
    verdict (containerBytes.take 52) = some .malformedHeader ∧
    verdict (containerBytes.set 4 2) = some .malformedHeader ∧ verdict (containerBytes.set 20 13) = some .malformedHeader ∧
    verdict (containerBytes.set 20 12) = none ∧ verdict (containerBytes.set 8 27) = some .unsupportedFormat ∧
    verdict (containerBytes.set 12 1) = none ∧ verdict (containerBytes.set 48 9) = some .malformedHeader ∧
    verdict (containerBytes.set 48 8) = none := by decide

/-! ## Units that share a target memory, and commands that overlap -/

/-- `RESULT`, `STATUS`, and the words of the target memory 0, after a list of accesses. -/
def runTarget (s : State) (es : List HostEvent) : Option (Bool × Byte × List (Nat × Word32)) :=
  (runAccesses s es).map fun t => (t.unit.result, t.unit.status, targetOf t.targets 0)

/-- Two units bound to target memory 0: unit 0 decodes P1's block, which is red, and unit 1 fills with the Fallback; each
region is the 1×1 texture. -/
def sharedTarget : State :=
  { machine (decodeUnit 7 1 1 0 0 1 1 1 1 [0x00, 0xF8, 0x1F, 0x00, 0x00, 0x00, 0x00, 0x00]) with
    peers := [(1, decodeUnit 12 1 1 0 0 1 1 1 1 [])] }

/-- R286: commands that do not overlap leave the words of the later one, whichever that is. -/
theorem test_shared_target_in_turn :
    runTarget sharedTarget [.cmd 0, .select 1, .cmd 0] = some (true, 3, [(0, 0)]) ∧
    runTarget sharedTarget [.select 1, .cmd 0, .select 0, .cmd 0] = some (true, 0, [(0, 0xFFFF0000)]) := by decide

/-- R64: commands that overlap leave either unit's word. -/
theorem test_shared_target_race :
    runTarget sharedTarget [.start 0, .select 1, .start 0, .proceed .finish, .select 0, .proceed .finish] =
      some (true, 0, [(0, 0xFFFF0000)]) ∧
    runTarget sharedTarget [.start 0, .select 1, .start 0, .select 0, .proceed (.pixel 0), .select 1, .proceed .finish] =
      some (true, 3, [(0, 0)]) := by decide

/-- R268, R285: while the command runs, nothing has been reported, a write to the unit and a RESET are refused, and a read
is not. -/
theorem test_command_in_progress :
    runTarget sharedTarget [.start 0, .read .status] = some (false, 0, []) ∧
    runAccesses sharedTarget [.start 0, .set .texW 4] = none ∧ runAccesses sharedTarget [.start 0, .reset] = none ∧
    runTarget sharedTarget [.start 0, .proceed .finish, .set .texW 4] = some (true, 0, [(0, 0xFFFF0000)]) := by decide

set_option maxRecDepth 8192 in
/-- R265: units 0 and 1 both miss on `INFO_ID` 5, both decode, and the insertion of unit 0 comes last. -/
theorem test_two_misses :
    (runAccesses
      { machine (decodeUnit 3 1 1 0 0 1 1 1 1 (four [0x55, 0x55, 0x55, 0x55, 0x1E, 0x80, 0x00, 0xFC])) with
        peers := [(1, { decodeUnit 1 1 1 0 0 1 1 1 1 (four [0xFF, 0xFF, 0xFF, 0xFF, 0x1E, 0x80, 0x00, 0x7C]) with
          binding := 1 })] }
      [.start 0, .select 1, .start 0, .proceed .finish, .select 0, .proceed .finish]).map
      (fun t => (t.targets, t.cache)) =
      some ([(0, [(0, 0xFF5F009F)]), (1, [(0, 0xEECE0000)])],
        [{ key := 5, bitmap := { width := 1, height := 1, pixels := [⟨0x5F, 0x00, 0x9F, 0xFF⟩] } }]) := by decide

/-- R52, log 28: a target word is written and read at any index; R286: through the unit's binding. -/
theorem test_target_binding :
    (runAccesses State.reset [.writeTarget 3 7, .bindTarget 2, .writeTarget 3 9]).map
      (fun t => (t.targets, hostRead t (.target 3), hostRead t (.target 4))) =
      some ([(0, [(3, 7)]), (2, [(3, 9)])], .word 9, .noValue) := by decide

/-! ## Witnesses: states and operands that meet the hypotheses of each statement -/

/-- The geometry that a unit of `decodeUnit` holds. -/
def geometryOf (texW texH regX regY regW regH tgtW tgtH : Word32) : Geometry :=
  { texW := texW.toNat, texH := texH.toNat, regX := regX.toInt, regY := regY.toInt, regW := regW.toInt
    regH := regH.toInt, tgtW := tgtW.toNat, tgtH := tgtH.toNat }

theorem entry_ready (fmt : Word64) (texW texH regX regY regW regH tgtW tgtH : Word32) (bytes : List Byte) :
    EntryReady (decodeUnit fmt texW texH regX regY regW regH tgtW tgtH bytes)
      (geometryOf texW texH regX regY regW regH tgtW tgtH) :=
  { present := ⟨3, rfl, by decide, by decide⟩
    fmt := rfl, texW := rfl, texH := rfl, regX := rfl, regY := rfl, regW := rfl, regH := rfl, tgtW := rfl, tgtH := rfl }

/-- A unit whose region is Q1's: it starts left of the texture and ends below it, and the target just holds it. -/
def q1Unit (fmt : Word64) (bytes : List Byte) : DecodeUnit := decodeUnit fmt 10 6 0xFFFFFFFE 3 5 10 3 6 bytes

def q1Geometry : Geometry := geometryOf 10 6 0xFFFFFFFE 3 5 10 3 6

def q1Region : Rect := { x0 := 0, y0 := 3, x1 := 3, y1 := 6 }

theorem q1_ready (fmt : Word64) (bytes : List Byte) : RegionReady (q1Unit fmt bytes) q1Geometry q1Region :=
  { entry_ready fmt 10 6 0xFFFFFFFE 3 5 10 3 6 bytes with
    left := by decide, right := by decide, top := by decide, bottom := by decide, wide := by decide, tall := by decide
    fitsW := by decide, fitsH := by decide }

/-- The set-up of W1: a 1×1 texture of a PVRTC format. -/
def oneUnit (fmt : Word64) (bytes : List Byte) : DecodeUnit := decodeUnit fmt 1 1 0 0 1 1 1 1 bytes

def oneGeometry : Geometry := geometryOf 1 1 0 0 1 1 1 1

def oneRegion : Rect := { x0 := 0, y0 := 0, x1 := 1, y1 := 1 }

theorem one_ready (fmt : Word64) (bytes : List Byte) : RegionReady (oneUnit fmt bytes) oneGeometry oneRegion :=
  { entry_ready fmt 1 1 0 0 1 1 1 1 bytes with
    left := by decide, right := by decide, top := by decide, bottom := by decide, wide := by decide, tall := by decide
    fitsW := by decide, fitsH := by decide }

/-- Four words of V4. -/
def v4Bytes : List Byte := four [0x55, 0x55, 0x55, 0x55, 0x1E, 0x80, 0x00, 0xFC]

/-- A 1×1 bitmap of the pixel of W1, under key 5. -/
def oneEntry : CacheEntry :=
  { key := 5, bitmap := { width := 1, height := 1, pixels := [⟨0x5F, 0x00, 0x9F, 0xFF⟩] } }

/-- A machine with a second unit. -/
def twoUnits : State := { State.reset with peers := [(1, { resetUnit [] 0 with faultSeen := true })] }

theorem witness_EncodeDecodeRoundTrip :
    (Instr.decodeFallbackCustom 0x100000000).wellFormed = true ∧ (Instr.decodeUnsupported 0xffffffff).wellFormed = true ∧
    (Instr.blockIllegal 0xffffffffffffffff).wellFormed = true ∧ (Instr.illegalCmd 3).wellFormed = true := by decide

theorem witness_DecodeDropsNoBit : (0 : Word32) = 0 ∧ (1 : Word32) = 1 := by decide

theorem witness_StepRunsDecodedCommand :
    ({ machine (blockUnit 7 []) with host := [.cmd 1, .read .status] } : State).host = .cmd 1 :: [.read .status] ∧
    (machine (blockUnit 7 [])).unit.fmt = some 7 ∧ (machine (blockUnit 7 [])).unit.cmd = none := by decide

theorem witness_UnwrittenFmtChoosesNothing :
    ({ State.reset with host := [.cmd 1] } : State).unit.fmt = none ∧
    ({ State.reset with host := [.cmd 1] } : State).host = .cmd 1 :: [] ∧ State.reset.unit.cmd = none := by decide

theorem witness_IdleStepKeepsState : (machine (blockUnit 7 [])).host = [] := by decide

/-- Both clauses: a command in progress on the other unit, and none. -/
theorem witness_ResetActsOnEveryUnit :
    (let s : State := { twoUnits with peers := [(1, (resetUnit [] 0).withCmd 0)], host := [.reset] }
     s.host = .reset :: [] ∧ ∃ p ∈ s.peers, p.2.cmd ≠ none) ∧
    ({ twoUnits with host := [.reset] } : State).host = .reset :: [] ∧ twoUnits.unit.cmd = none ∧
    (∀ p ∈ twoUnits.peers, p.2.cmd = none) ∧
    twoUnits.unitOf 0 = some (resetUnit [] 0) ∧
    twoUnits.unitOf 1 = some { resetUnit [] 0 with faultSeen := true } := by decide

theorem reset_inv : State.reset.Inv where
  unit :=
    { progress := .inl rfl, outcome := by decide, sticky := by decide, result := by decide, payloadWf := by decide
      payloadAddresses := by decide }
  peers := by simp [State.reset]
  targets := by decide
  cache := { bound := by decide, distinct := by decide }
  numbers := by decide

/-- A unit in progress: the command of unit 0 of `sharedTarget`, started. -/
def pendingUnit : DecodeUnit :=
  { (decodeUnit 7 1 1 0 0 1 1 1 1 [0x00, 0xF8, 0x1F, 0x00, 0x00, 0x00, 0x00, 0x00]) with
    cmd := some 0, cursor := some (.block 0 0), writes := [(0, 0xFFFF0000)], completion := some .ok }

theorem test_start_leaves_the_command_in_progress :
    (runAccesses sharedTarget [.start 0]).map (fun t => t.unit) = some pendingUnit := by decide

/-- The invariant holds and the step answers a next state: a host write of `FMT`; and a command in progress. -/
theorem witness_StepKeepsInvariant :
    (({ State.reset with host := [.setFmt 7] } : State).Inv ∧
      ∃ t, step { State.reset with host := [.setFmt 7] } = .next t) ∧
    ({ machine pendingUnit with host := [.proceed .finish] } : State).Inv ∧
    ∃ t, step { machine pendingUnit with host := [.proceed .finish] } = .next t :=
  ⟨⟨{ reset_inv with }, _, rfl⟩,
    { reset_inv with
      unit :=
        { progress := .inr ⟨rfl, .inl rfl, by decide, by intro e h; cases h⟩, outcome := by decide, sticky := by decide
          result := by decide, payloadWf := by decide, payloadAddresses := by decide } },
    _, rfl⟩

theorem witness_ConfigurationIsTheHosts :
    (∃ t, exec .flush State.reset = .next t) ∧
    ({ State.reset with host := [.set .ctrl 0xffffffff] } : State).host = .set .ctrl 0xffffffff :: [] ∧
    ({ State.reset with host := [.setFmt 27] } : State).host = .setFmt 27 :: [] ∧ State.reset.unit.cmd = none ∧
    keepsConfiguration (.cmd 2) = true ∧ ∃ t, step { State.reset with host := [.cmd 2] } = .next t :=
  ⟨⟨_, rfl⟩, rfl, rfl, rfl, rfl, _, rfl⟩

/-- A stale hit: `INFO_ID` names a bitmap with no pixel. -/
def staleState (fmt : Word64) : State := { machine (oneUnit fmt v4Bytes) with cache := [entry 5] }

theorem one_image_ready (fmt : Word64) :
    ∀ p ∈ pvrtcDecodes, ImageReady (oneUnit fmt v4Bytes) oneGeometry p.2.1 5 := by
  intro p hp
  refine ⟨rfl, 32, rfl, ?_⟩
  simp only [pvrtcDecodes, List.mem_cons, List.not_mem_nil, or_false] at hp
  obtain rfl | rfl | rfl | rfl := hp <;> decide

theorem one_image_ready_rgb4 (fmt : Word64) : ImageReady (oneUnit fmt v4Bytes) oneGeometry .rgb4 5 :=
  one_image_ready fmt (.decodePvrtc4bppRgb, .rgb4, 2) (by simp [pvrtcDecodes])

theorem stale_keys (fmt : Word64) : cacheKeys (staleState fmt).cache = [5] := rfl

/-- Both clauses: the refusal is reached, and every hypothesis of the second clause is met by each PVRTC format, with a
payload of exactly `PVRTC_NEED` bytes. -/
theorem witness_OnlyStaleHitsAreRefused :
    Instr.decodePvrtc4bppRgb.wellFormed = true ∧
    exec .decodePvrtc4bppRgb (staleState 2) = .refused .bitmapTooSmall ∧
    ∀ p ∈ pvrtcDecodes, RegionReady (staleState (encodeFmt p.1)).unit oneGeometry oneRegion ∧
      p.2.2 ∈ (staleState (encodeFmt p.1)).params.knownFormats ∧
      ImageReady (staleState (encodeFmt p.1)).unit oneGeometry p.2.1 (entry 5).key ∧
      (cacheKeys (staleState (encodeFmt p.1)).cache).Nodup ∧ entry 5 ∈ (staleState (encodeFmt p.1)).cache ∧
      oneRegion.contains 0 0 = true ∧ (entry 5).bitmap.pixel 0 0 = none := by
  refine ⟨by decide, rfl, fun p hp => ⟨one_ready _ _, ?_, one_image_ready _ p hp,
    by simp [stale_keys], List.mem_cons_self .., by decide, by decide⟩⟩
  simp only [pvrtcDecodes, List.mem_cons, List.not_mem_nil, or_false] at hp
  obtain rfl | rfl | rfl | rfl := hp <;> decide

theorem witness_EveryCommandCompletesOrRaises :
    Instr.flush.wellFormed = true ∧ (∃ t, exec .flush State.reset = .next t) ∧
    (Instr.illegalCmd 3).wellFormed = true ∧ ∃ t, exec (.illegalCmd 3) State.reset = .next t :=
  ⟨by decide, ⟨_, rfl⟩, by decide, _, rfl⟩

theorem witness_RaisesArePrecise :
    (Instr.illegalCmd 3).wellFormed = true ∧
    exec (.illegalCmd 3) State.reset = .next (State.reset.raised false 6 1) ∧
    isRaiseStatus (State.reset.raised false 6 1).unit.status = true := ⟨by decide, rfl, by decide⟩

/-- The second clause for the unit the host drives and for another one. -/
theorem witness_FaultSeenIsSticky :
    (∃ t, exec (.illegalCmd 3) State.reset = .next t ∧ isRaiseStatus t.unit.status = true) ∧
    let s : State := { twoUnits with unit := { resetUnit [] 0 with faultSeen := true }, host := [.cmd 2] }
    (s.unitId :: s.peers.map Prod.fst).Nodup ∧ (∃ t, step s = .next t) ∧ (∀ rest, s.host ≠ .reset :: rest) ∧
      (∃ u, s.unitOf 0 = some u ∧ u.faultSeen = true) ∧ ∃ u, s.unitOf 1 = some u ∧ u.faultSeen = true :=
  ⟨⟨_, rfl, by decide⟩, by decide, ⟨_, rfl⟩, by simp, ⟨_, rfl, rfl⟩, _, rfl, rfl⟩

theorem witness_CommandsAreIdempotent :
    targetsWf State.reset.targets = true ∧ CacheInv State.reset.cache ∧ State.reset.gapOps = [] ∧
    ∃ t, exec .flush State.reset = .next t := ⟨by decide, ⟨by decide, by decide⟩, rfl, _, rfl⟩

/-- Each of the two null arguments. -/
theorem witness_NullArgumentsReturnFalse :
    isDecodeCommand .decodeDxt1 = true ∧ (machine { q4 with ctrl := some 2 }).unit.ctrl = some 2 ∧
    (2 : Word32).getLsbD 0 = false ∧ (machine { q4 with ctrl := some 1 }).unit.ctrl = some 1 ∧
    (1 : Word32).getLsbD 1 = false := by decide

/-- `CTRL`, `FMT`, and the first and the last register of the entry. -/
theorem witness_DecodeRaisesForUnsetRegister :
    isDecodeCommand .decodeDxt1 = true ∧ (machine (resetUnit [] 0)).unit.ctrl = none ∧
    (machine { q4 with fmt := none }).unit.ctrl = some 3 ∧ (3 : Word32).getLsbD 0 = true ∧
    (3 : Word32).getLsbD 1 = true ∧ (machine { q4 with fmt := none }).unit.fmt = none ∧
    (machine q4).unit.fmt.isSome = true ∧ FormatKnown (machine q4).params (encodeFmt .decodeDxt1) ∧
    (machine { q4 with texW := none }).unit.config (entryRegisters.getD 0 .ctrl) = none ∧
    (∀ j, j < 7 → (machine { q4 with tgtH := none }).unit.config (entryRegisters.getD j .ctrl) ≠ none) ∧
    (machine { q4 with tgtH := none }).unit.config (entryRegisters.getD 7 .ctrl) = none := by
  refine ⟨by decide, rfl, rfl, by decide, by decide, rfl, rfl, Or.inr (by decide), rfl, ?_, rfl⟩
  intro j hj
  interval_cases j <;> decide

theorem witness_UnknownFormatRaises :
    isDecodeCommand (.decodeUnsupported 27) = true ∧ (machine q4).unit.ctrl = some 3 ∧ (3 : Word32).getLsbD 0 = true ∧
    (3 : Word32).getLsbD 1 = true ∧ (machine q4).unit.fmt.isSome = true ∧
    ¬ FormatKnown (machine q4).params (encodeFmt (.decodeUnsupported 27)) ∧ 26 < (27 : Word32).toNat ∧
    (machine q4).params.knownFormats = List.range 27 := by
  refine ⟨by decide, rfl, by decide, by decide, rfl, ?_, by decide, rfl⟩
  unfold FormatKnown
  decide

/-- The parameters of a platform whose `KNOWN_FORMATS` has the code 27. -/
def wideParams : Config.Params := { etcRouted := false, knownFormats := List.range 28 }

/-- C8: a code above 26 that `KNOWN_FORMATS` contains reaches the Fallback filler, and reports it for an empty region too. -/
theorem test_decode_known_code_without_a_row :
    targetAfter { machine (decodeUnit 27 1 1 0 0 1 1 1 1 []) with params := wideParams } = some [(0, 0)] ∧
    reportAfter { machine (decodeUnit 27 1 1 5 0 1 1 1 1 []) with params := wideParams } (.cmd 0) =
      some (true, 3, 0, false) := by decide

/-- Q2, where the region starts at the right edge, and Q3, where it ends left of the texture, for every class. -/
theorem witness_EmptyRegionCompletes :
    (let g := geometryOf 4 4 4 0 4 4 1 1
     EntryReady (decodeUnit 7 4 4 4 0 4 4 1 1 []) g ∧ min (g.regX + g.regW) g.texW ≤ max g.regX 0) ∧
    (let g := geometryOf 4 4 0xFFFFFFF6 0xFFFFFFF6 5 5 1 1
     EntryReady (decodeUnit 7 4 4 0xFFFFFFF6 0xFFFFFFF6 5 5 1 1 []) g ∧
       min (g.regY + g.regH) g.texH ≤ max g.regY 0) ∧
    (∀ p ∈ dxtDecodes, p.2.2 ∈ Config.defaultParams.knownFormats) ∧
    (∀ p ∈ pvrtcDecodes, p.2.2 ∈ Config.defaultParams.knownFormats) ∧
    (∀ p ∈ etcDecodes, p.2.2 ∈ Config.defaultParams.knownFormats) ∧
    (∀ p ∈ fallbackDecodes, p.2 ∈ Config.defaultParams.knownFormats) ∧ 2 ^ 32 ≤ (0x100000000 : Word64).toNat ∧
    26 < (27 : Word32).toNat ∧ (27 : Word32).toNat ∈ wideParams.knownFormats :=
  ⟨⟨entry_ready .., by decide⟩, ⟨entry_ready .., by decide⟩, by decide, by decide, by decide, by decide, by decide,
    by decide, by decide⟩

/-- Q4c: the target lacks one row; and one column. -/
theorem witness_TargetOverrunRaises :
    isDecodeCommand .decodeDxt1 = true ∧ FormatKnown Config.defaultParams (encodeFmt .decodeDxt1) ∧
    (let g := geometryOf 8 8 0 0 8 8 8 7
     EntryReady (decodeUnit 7 8 8 0 0 8 8 8 7 []) g ∧ max g.regX 0 < min (g.regX + g.regW) g.texW ∧
       max g.regY 0 < min (g.regY + g.regH) g.texH ∧ (g.tgtH : Int) < min (g.regY + g.regH) g.texH) ∧
    (let g := geometryOf 8 8 0 0 8 8 7 8
     EntryReady (decodeUnit 7 8 8 0 0 8 8 7 8 []) g ∧ max g.regX 0 < min (g.regX + g.regW) g.texW ∧
       max g.regY 0 < min (g.regY + g.regH) g.texH ∧ (g.tgtW : Int) < min (g.regX + g.regW) g.texW) :=
  ⟨by decide, Or.inr (by decide), ⟨entry_ready .., by decide, by decide, by decide⟩,
    entry_ready .., by decide, by decide, by decide⟩

/-- `PAYLOAD_LEN` unwritten, and a payload one byte short of the fourth block. -/
theorem witness_BlockPayloadChecks :
    ∀ p ∈ blockFormats,
      (let s := routed { q1Unit 7 [] with payloadLen := none }
       RegionReady s.unit q1Geometry q1Region ∧ p.2.2.2 ∈ s.params.knownFormats ∧ Routed s.params p.2.2.2 ∧
         s.unit.payloadLen = none) ∧
      let s := routed { q1Unit 7 [] with payloadLen := some (BitVec.ofNat 32 (4 * p.2.2.1 - 1)) }
      RegionReady s.unit q1Geometry q1Region ∧
        ∃ len, s.unit.payloadLen = some len ∧
          len.toNat < (((q1Region.y1 + 3) / 4 - 1) * ((q1Geometry.texW + 3) / 4) + (q1Region.x1 + 3) / 4) * p.2.2.1 := by
  intro p hp
  refine ⟨⟨{ q1_ready 7 [] with }, ?_, fun _ => rfl, rfl⟩, { q1_ready 7 [] with }, _, rfl, ?_⟩ <;>
  · simp only [blockFormats, List.mem_cons, List.not_mem_nil, or_false] at hp
    obtain rfl | rfl | rfl | rfl | rfl | rfl | rfl := hp <;> decide

/-- `PAYLOAD_LEN` unwritten, `INFO_ID` unwritten, and a payload one byte short of `PVRTC_NEED`. -/
theorem witness_ImagePayloadChecks :
    ∀ p ∈ pvrtcDecodes,
      RegionReady (oneUnit 2 []) oneGeometry oneRegion ∧ p.2.2 ∈ Config.defaultParams.knownFormats ∧
      (let u := { oneUnit 2 [] with payloadLen := none }
       RegionReady u oneGeometry oneRegion ∧ u.payloadLen = none) ∧
      (let u := { oneUnit 2 [] with payloadLen := some 31, infoId := none }
       RegionReady u oneGeometry oneRegion ∧ u.payloadLen = some 31 ∧ u.infoId = none) ∧
      (let u := { oneUnit 2 [] with payloadLen := some 31 }
       RegionReady u oneGeometry oneRegion ∧ u.payloadLen = some 31 ∧ u.infoId ≠ none ∧
         (31 : Word32).toNat < pvrtcNeed (max ((oneGeometry.texW + (p.2.1.wordWidth - 1)) / p.2.1.wordWidth) 2)
           (max ((oneGeometry.texH + 3) / 4) 2)) := by
  intro p hp
  refine ⟨one_ready 2 [], ?_, ⟨{ one_ready 2 [] with }, rfl⟩, ⟨{ one_ready 2 [] with }, rfl, rfl⟩,
    { one_ready 2 [] with }, rfl, (Option.some_ne_none 5), ?_⟩ <;>
  · simp only [pvrtcDecodes, List.mem_cons, List.not_mem_nil, or_false] at hp
    obtain rfl | rfl | rfl | rfl := hp <;> decide

/-- Q1 under each DXT format, with a payload that ends with the last block the region needs. -/
theorem witness_DxtDecodeWritesRegion :
    ∀ p ∈ dxtDecodes,
      let s := machine (q1Unit (encodeFmt p.1) (List.replicate (4 * p.2.1.blockBytes) 0))
      RegionReady s.unit q1Geometry q1Region ∧ p.2.2 ∈ s.params.knownFormats ∧
        BlocksReady s.unit q1Geometry q1Region p.2.1.blockBytes := by
  intro p hp
  refine ⟨q1_ready _ _, ?_, _, rfl, ?_⟩ <;>
  · simp only [dxtDecodes, List.mem_cons, List.not_mem_nil, or_false] at hp
    obtain rfl | rfl | rfl := hp <;> decide

/-- Q1 under each ETC format, routed, in the same way. -/
theorem witness_EtcDecodeWritesRegion :
    ∀ p ∈ etcDecodes,
      let s := routed (q1Unit (encodeFmt p.1) (List.replicate (4 * p.2.1.blockBytes) 0))
      RegionReady s.unit q1Geometry q1Region ∧ p.2.2 ∈ s.params.knownFormats ∧ s.params.etcRouted = true ∧
        BlocksReady s.unit q1Geometry q1Region p.2.1.blockBytes := by
  intro p hp
  refine ⟨q1_ready _ _, ?_, rfl, _, rfl, ?_⟩ <;>
  · simp only [etcDecodes, List.mem_cons, List.not_mem_nil, or_false] at hp
    obtain rfl | rfl | rfl | rfl := hp <;> decide

/-- Each of the four kinds of filling DECODE. -/
theorem witness_FallbackFillsRegion :
    let s := machine (q1Unit 12 [])
    RegionReady s.unit q1Geometry q1Region ∧ (∀ p ∈ fallbackDecodes, p.2 ∈ s.params.knownFormats) ∧
      (∀ p ∈ etcDecodes, p.2.2 ∈ s.params.knownFormats ∧ s.params.etcRouted = false) ∧
      2 ^ 32 ≤ (0x100000000 : Word64).toNat ∧ 26 < (27 : Word32).toNat ∧
      (27 : Word32).toNat ∈ wideParams.knownFormats :=
  ⟨q1_ready _ _, by decide, by decide, by decide, by decide, by decide⟩

/-- W1 for each PVRTC format, with a payload of exactly `PVRTC_NEED` bytes and an empty cache. -/
theorem witness_PvrtcMissDecodesImage :
    ∀ p ∈ pvrtcDecodes,
      let s := machine (oneUnit (encodeFmt p.1) v4Bytes)
      RegionReady s.unit oneGeometry oneRegion ∧ p.2.2 ∈ s.params.knownFormats ∧
        ImageReady s.unit oneGeometry p.2.1 5 ∧ 5 ∉ cacheKeys s.cache := by
  intro p hp
  refine ⟨one_ready _ _, ?_, one_image_ready _ p hp, List.not_mem_nil⟩
  simp only [pvrtcDecodes, List.mem_cons, List.not_mem_nil, or_false] at hp
  obtain rfl | rfl | rfl | rfl := hp <;> decide

/-- W1 on a hit. -/
theorem witness_PvrtcHitCopiesBitmap :
    let s : State := { machine (oneUnit 2 v4Bytes) with cache := [entry 4, oneEntry] }
    RegionReady s.unit oneGeometry oneRegion ∧ 2 ∈ s.params.knownFormats ∧ ImageReady s.unit oneGeometry .rgb4 oneEntry.key ∧
      (cacheKeys s.cache).Nodup ∧ oneEntry ∈ s.cache ∧
      ∀ x y, oneRegion.contains x y = true → oneEntry.bitmap.pixel x y = some ⟨0x5F, 0x00, 0x9F, 0xFF⟩ := by
  refine ⟨one_ready _ _, by decide, one_image_ready_rgb4 2, by decide, by decide, ?_⟩
  intro x y h
  obtain ⟨rfl, rfl⟩ : x = 0 ∧ y = 0 := by
    simp [Rect.contains, oneRegion] at h
    omega
  decide

/-- W1 with the bitmap that W1 gives. -/
theorem witness_HitEqualsMiss :
    let s : State := { machine (oneUnit 2 v4Bytes) with cache := [entry 4, oneEntry] }
    RegionReady s.unit oneGeometry oneRegion ∧ 2 ∈ s.params.knownFormats ∧ ImageReady s.unit oneGeometry .rgb4 oneEntry.key ∧
      targetsWf s.targets = true ∧ (cacheKeys s.cache).Nodup ∧ oneEntry ∈ s.cache ∧
      ∀ x y, x < oneGeometry.texW → y < oneGeometry.texH →
        oneEntry.bitmap.pixel x y = some (texturePixel s.unit .rgb4 oneGeometry.texW oneGeometry.texH x y) := by
  refine ⟨one_ready _ _, by decide, one_image_ready_rgb4 2, by decide, by decide, by decide, ?_⟩
  intro x y hx hy
  obtain rfl : x = 0 := Nat.lt_one_iff.mp hx
  obtain rfl : y = 0 := Nat.lt_one_iff.mp hy
  decide

set_option maxRecDepth 8192 in
/-- Both clauses: Q1 of DXT1 at its last pixel, and W1. -/
theorem witness_BlockEquivalence :
    (let s := machine (q1Unit 7 (List.replicate 32 0))
     let b := machine (blockUnit 7 (List.replicate 8 0))
     RegionReady s.unit q1Geometry q1Region ∧ 7 ∈ s.params.knownFormats ∧ Routed s.params 7 ∧
       BlocksReady s.unit q1Geometry q1Region 8 ∧ q1Region.contains 2 5 = true ∧ 7 ∈ b.params.knownFormats ∧
       b.unit.fmt.isSome = true ∧ LatchHolds b.unit 8 (blockBytesAt s.unit q1Geometry.texW 8 2 5)) ∧
    (let s := machine (oneUnit 2 v4Bytes)
     let b := machine (blockUnit 2 v4Bytes)
     RegionReady s.unit oneGeometry oneRegion ∧ 2 ∈ s.params.knownFormats ∧ ImageReady s.unit oneGeometry .rgb4 5 ∧
       5 ∉ cacheKeys s.cache ∧ oneRegion.contains 0 0 = true ∧ 2 ∈ b.params.knownFormats ∧
       b.unit.fmt.isSome = true ∧ LatchHolds b.unit 32 (quadBytesAt s.unit 4 2 2 0 0)) := by
  refine ⟨⟨q1_ready _ _, by decide, ?_, ⟨32, rfl, by decide⟩, by decide, by decide, rfl, ?_⟩,
    one_ready _ _, by decide, one_image_ready_rgb4 2, by decide, by decide, by decide, rfl, ?_⟩
  · unfold Routed; decide
  · unfold LatchHolds; decide
  · unfold LatchHolds; decide

theorem witness_DxtBlockWritesLatch :
    ∀ p ∈ dxtBlocks,
      let bytes : List Byte := List.replicate p.2.1.blockBytes 0xE4
      let s := machine (blockUnit (encodeFmt p.1) bytes)
      s.unit.fmt.isSome = true ∧ p.2.2 ∈ s.params.knownFormats ∧ LatchHolds s.unit p.2.1.blockBytes bytes := by
  intro p hp
  simp only [dxtBlocks, List.mem_cons, List.not_mem_nil, or_false] at hp
  obtain rfl | rfl | rfl := hp <;> refine ⟨rfl, by decide, ?_⟩ <;> unfold LatchHolds <;> decide

theorem witness_EtcBlockWritesLatch :
    ∀ p ∈ etcBlocks,
      let bytes : List Byte := List.replicate p.2.1.blockBytes 0xE4
      let s := machine (blockUnit (encodeFmt p.1) bytes)
      s.unit.fmt.isSome = true ∧ p.2.2 ∈ s.params.knownFormats ∧ LatchHolds s.unit p.2.1.blockBytes bytes := by
  intro p hp
  simp only [etcBlocks, List.mem_cons, List.not_mem_nil, or_false] at hp
  obtain rfl | rfl | rfl | rfl := hp <;> refine ⟨rfl, by decide, ?_⟩ <;> unfold LatchHolds <;> decide

set_option maxRecDepth 8192 in
theorem witness_PvrtcBlockWritesLatch :
    ∀ p ∈ pvrtcBlocks,
      let s := machine (blockUnit (encodeFmt p.1) v4Bytes)
      s.unit.fmt.isSome = true ∧ p.2.2 ∈ s.params.knownFormats ∧ LatchHolds s.unit 32 v4Bytes := by
  intro p hp
  simp only [pvrtcBlocks, List.mem_cons, List.not_mem_nil, or_false] at hp
  obtain rfl | rfl | rfl | rfl := hp <;> refine ⟨rfl, by decide, ?_⟩ <;> unfold LatchHolds <;> decide

/-- `FMT` unwritten; and the last byte that each format uses unwritten. -/
theorem witness_BlockRaisesForUnsetLatch :
    isBlockCommand .blockDxt1 = true ∧ State.reset.unit.fmt = none ∧
    (∀ p ∈ dxtBlocks, p.2.2 ∈ Config.defaultParams.knownFormats ∧
      none ∈ (blockUnit 7 (List.replicate (p.2.1.blockBytes - 1) 0)).blkIn.toList.take p.2.1.blockBytes) ∧
    (∀ p ∈ etcBlocks, p.2.2 ∈ Config.defaultParams.knownFormats ∧
      none ∈ (blockUnit 7 (List.replicate (p.2.1.blockBytes - 1) 0)).blkIn.toList.take p.2.1.blockBytes) ∧
    (∀ p ∈ pvrtcBlocks, p.2.2 ∈ Config.defaultParams.knownFormats ∧
      none ∈ (blockUnit 7 (List.replicate 31 0)).blkIn.toList.take 32) ∧
    (blockUnit 7 []).fmt.isSome = true := by
  decide

/-- The least reserved word, a word with only `MBZ` set, and a format of each kind with no datapath. -/
theorem witness_IllegalCommandsRaise :
    3 ≤ (3 : Word32).toNat % 16 ∧ (16 : Word32).toNat / 16 ≠ 0 ∧
    (machine (blockUnit 4 [])).unit.fmt = some 4 ∧ (4 : Word64).toNat ∉ [0, 1, 2, 3, 6, 7, 9, 11, 22, 23, 24] ∧
    (machine (blockUnit 27 [])).unit.fmt = some 27 ∧
    (27 : Word64).toNat ∉ (machine (blockUnit 27 [])).params.knownFormats ∧
    (machine (blockUnit 0x100000000 [])).unit.fmt = some 0x100000000 ∧ 2 ^ 32 ≤ (0x100000000 : Word64).toNat ∧
    (Instr.blockIllegal 4).wellFormed = true ∧ (machine (blockUnit 4 [])).unit.fmt.isSome = true := by decide

theorem witness_PvrtcAlphaTagChangesNothing :
    (0 ∈ State.reset.params.knownFormats ↔ 1 ∈ State.reset.params.knownFormats) ∧
    (2 ∈ State.reset.params.knownFormats ↔ 3 ∈ State.reset.params.knownFormats) := by decide

theorem witness_EtcOneIsEtcTwoRgb :
    6 ∈ State.reset.params.knownFormats ↔ 22 ∈ State.reset.params.knownFormats := by decide

/-- The colour words of E2 (opaque), E14 (planar), E6 (differential) and E13 (T), and an H word with `opaque = 0`; each
case of the statement is met by one of them, at the index it names. -/
theorem witness_EtcPunchThroughAlpha :
    (etcColourWord .rgbA1 [0x83, 0xFC, 0x00, 0x77, 0xCC, 0xCC, 0xAA, 0xAA]).getLsbD 33 = true ∧
    (let w := etcColourWord .rgbA1 [0x7F, 0x7F, 0xFB, 0x80, 0x00, 0x00, 0x00, 0x00]
     w.getLsbD 33 = false ∧ etcMode .rgbA1 w = .planar) ∧
    (let w := etcColourWord .rgbA1 [0x83, 0xFC, 0x00, 0x75, 0xCC, 0xCC, 0xAA, 0xAA]
     w.getLsbD 33 = false ∧ etcMode .rgbA1 w = .differential ∧ etcIndex w 0 = 0 ∧ etcIndex w 1 = 1 ∧ etcIndex w 2 = 2 ∧
       etcIndex w 15 = 3) ∧
    (let w := etcColourWord .rgbA1 [0xFB, 0x00, 0x00, 0xF5, 0xCC, 0xCC, 0xAA, 0xAA]
     w.getLsbD 33 = false ∧ etcMode .rgbA1 w = .t ∧ etcIndex w 0 ≠ 2) ∧
    (let w := etcColourWord .rgbA1 [0x44, 0x0C, 0x22, 0x21, 0xCC, 0xCC, 0xAA, 0xAA]
     w.getLsbD 33 = false ∧ etcMode .rgbA1 w = .h ∧ etcIndex w 0 ≠ 2) := by
  refine ⟨by decide, ⟨by decide, by decide⟩, ⟨by decide, by decide, by decide, by decide, by decide, by decide⟩,
    ⟨by decide, by decide, by decide⟩, by decide, by decide, by decide⟩

/-- Words that differ in bit 63, and in every ignored bit of the T layout. -/
theorem witness_EtcIgnoredBitsDoNotCount :
    (∀ k, k ∉ [63, 62, 61, 58] → (0 : Word64).getLsbD k = (0xE400000000000000 : Word64).getLsbD k) ∧
    (∀ k, k ∉ [63, 55, 54, 53, 50] → (0 : Word64).getLsbD k = (0x80E4000000000000 : Word64).getLsbD k) ∧
    ∀ k, k ∉ [63, 55, 47, 46, 45, 42] → (0 : Word64).getLsbD k = (0x8080E40000000000 : Word64).getLsbD k := by
  refine ⟨?_, ?_, ?_⟩ <;>
  · intro k
    by_cases hk : k < 64
    · revert k; decide
    · intro _
      rw [BitVec.getLsbD_of_ge _ _ (by omega), BitVec.getLsbD_of_ge _ _ (by omega)]

/-- D1, D2, and the two alpha cases D5 and D6. -/
theorem witness_DxtPalettesLieBetweenEndpoints :
    (dxtEntry 0xF800 0x001F 3).2 = .solid ∧ (dxtEntry 0x0000 0xFFFF 2).2 = .solid ∧
    (255 ≤ 255 ∧ 0 ≤ 255 ∧ 7 < 8 ∧ 0 < 255) ∧ (0 ≤ 255 ∧ 255 ≤ 255 ∧ 5 < 6) := by decide

/-- The first and the last pixel, and code 3 of a three-colour block. -/
theorem witness_DxtTransparencyIsDxtOneOnly :
    0 < 16 ∧ 15 < 16 ∧
    (let b : List Byte := [0x00, 0xF8, 0x00, 0xF8, 0xE4, 0xE4, 0xE4, 0xE4]
     (leWord 16 (byteSlice b 0 2)).toNat ≤ (leWord 16 (byteSlice b 2 2)).toNat ∧
       bits (leWord 32 (byteSlice b 4 4)) 7 6 = 3) := by decide

/-- Both clauses: an endpoint, and a word whose A and B are white, at each width. -/
theorem witness_UniformQuadKeepsColour :
    (let c : WordColour := { r := 31, g := 0, b := 31, a := 15 }
     (8 = 4 ∨ 8 = 8) ∧ 7 < 8 ∧ 3 < 4 ∧ c.r < 32 ∧ c.g < 32 ∧ c.b < 32) ∧
    (let w : PvrtcWord := { mod := 0xE4E4E4E4, col := 0xFFFFFFFF }
     let q : Quad := { p := w, q := w, r := w, s := w }
     ∀ w ∈ [q.p, q.q, q.r, q.s], colourA w.col = ⟨31, 31, 31, 15⟩ ∧ colourB w.col = ⟨31, 31, 31, 15⟩) := by decide

set_option maxRecDepth 8192 in
/-- V6's punch-through on words whose A and B are white: the pixel keeps its colour and loses its alpha. -/
theorem test_punched_white_pixel :
    tileAfter 2 2 (four [0xE4, 0xE4, 0xE4, 0xE4, 0xFF, 0xFF, 0xFF, 0xFF]) = some [some 0x00FFFFFF, some 0xFFFFFFFF] := by
  decide

/-- The weight 14 of V6. -/
theorem witness_ModulationWeights :
    let w : PvrtcWord := { mod := 0xE4E4E4E4, col := 0xFFFF8001 }
    getMod 4 { p := w, q := w, r := w, s := w } 2 2 = 14 := by decide

theorem witness_PvrtcValuesFitInBytes :
    (let c : WordColour := { r := 31, g := 31, b := 31, a := 15 }
     (8 = 4 ∨ 8 = 8) ∧ 7 < 8 ∧ 3 < 4 ∧ ∀ d ∈ [c, c, c, c], d.r < 32 ∧ d.g < 32 ∧ d.b < 32 ∧ d.a < 16) ∧
    (255 ≤ 255 ∧ 0 ≤ 255 ∧ 8 ≤ 8) := by decide

theorem witness_TwiddledWordsAreDistinct : 2 < 3 ∧ 0 < 3 ∧ twiddle 3 3 2 0 = twiddle 3 3 2 0 := by decide

/-- A lookup that hits the least recently used of two entries, one that misses, and an insertion into a full cache. -/
theorem witness_InsertEvictsLeastRecentlyUsed :
    (cacheKeys [entry 5, entry 6]).Nodup ∧ entry 5 ∈ [entry 5, entry 6] ∧ (entry 5).key = 5 ∧
    7 ∉ cacheKeys [entry 5, entry 6] ∧ (cacheKeys ([1, 2, 3, 4, 5, 6, 7, 8].map entry)).Nodup := by decide

/-- Nine insertions; and a full cache with its oldest key looked up. -/
theorem witness_CacheKeepsLastEight :
    (([1, 2, 3, 4, 5, 6, 7, 8, 9].map fun k : Word32 => (k, (entry k).bitmap)).map Prod.fst).Nodup ∧
    let c := [1, 2, 3, 4, 5, 6, 7, 8].map entry
    c.length = 8 ∧ cacheKeys c = 1 :: [2, 3, 4, 5, 6, 7, 8] ∧ (cacheKeys c).Nodup ∧ 9 ∉ cacheKeys c := by decide

/-- Two units with one `INFO_ID`, the set-up of W1 each, and target memories of their own. -/
def twinState : State :=
  { machine (oneUnit 2 v4Bytes) with cache := [entry 4], peers := [(1, { oneUnit 2 v4Bytes with binding := 1 })] }

/-- Both clauses. -/
theorem witness_OperationsInTheGap :
    (RegionReady twinState.unit oneGeometry oneRegion ∧ 2 ∈ twinState.params.knownFormats ∧
      ImageReady twinState.unit oneGeometry .rgb4 5 ∧ CacheInv twinState.cache ∧ 5 ∉ cacheKeys twinState.cache) ∧
    ∃ v, twinState.unitOf 1 = some v ∧ (twinState.unitId :: twinState.peers.map Prod.fst).Nodup ∧ 1 ≠ twinState.unitId ∧
      twinState.unit.cmd = none ∧ v.cmd = none ∧ twinState.unit.fmt = some (encodeFmt .decodePvrtc4bppRgb) ∧
      v.fmt = some (encodeFmt .decodePvrtc4bppRgb) ∧ RegionReady v oneGeometry oneRegion ∧
      ImageReady v oneGeometry .rgb4 5 ∧ twinState.gapOps = [] ∧ v.binding ≠ twinState.unit.binding :=
  ⟨⟨one_ready _ _, by decide, one_image_ready_rgb4 2, ⟨by decide, by decide⟩, by decide⟩,
    { oneUnit 2 v4Bytes with binding := 1 }, rfl, by decide, by decide, rfl, rfl, rfl, rfl, { one_ready 2 v4Bytes with },
    { one_image_ready_rgb4 2 with }, rfl, by decide⟩

/-- A DECODE that is started and is still in progress after its insertion and after a pixel write, one that is run, and a unit
whose command is in progress. -/
theorem witness_CommandInProgressEndsAsWhole :
    sharedTarget.unit.cmd = none ∧ targetsWf sharedTarget.targets = true ∧
    (∃ u, hostAccess sharedTarget (.start 0) = .next u ∧ u.unit.cmd ≠ none ∧
      (List.foldl State.proceed u [.insert, .pixel 0]).unit.cmd ≠ none) ∧
    (∃ t, hostAccess sharedTarget (.cmd 0) = .next t) ∧ (2 : Word32) ≠ 0 ∧ (machine pendingUnit).unit.cmd ≠ none :=
  ⟨rfl, rfl, ⟨_, rfl, by decide, by decide⟩, ⟨_, rfl⟩, by decide, by decide⟩

/-- Two units in progress that write one word of one target memory; and two that write different words. -/
theorem witness_SharedTargetTakesEitherValue :
    let s : State := { machine pendingUnit with peers := [(1, { pendingUnit with writes := [(0, 0), (1, 0)] })] }
    let s' : State := { machine pendingUnit with peers := [(1, { pendingUnit with writes := [(1, 0)] })] }
    (s.unitId :: s.peers.map Prod.fst).Nodup ∧ s.unitOf 1 = some { pendingUnit with writes := [(0, 0), (1, 0)] } ∧
      1 ≠ s.unitId ∧ s.unit.completion.isSome = true ∧ (0, 0xFFFF0000) ∈ s.unit.writes ∧ targetsWf s'.targets = true ∧
      ∀ w ∈ s'.unit.writes, ∀ w' ∈ [((1 : Nat), (0 : Word32))], w.1 ≠ w'.1 :=
  ⟨by decide, rfl, by decide, rfl, by decide, rfl, by decide⟩

/-- The fields of S-1, with one metadata byte and no payload, and the greatest legal channel type. -/
def smallHeader : Header :=
  { flags := 1, fmt := 7, cspace := 1, chtype := 12, texH := 4, texW := 4, texDepth := 1, surfaces := 1, faces := 1
    mipmaps := 1, metadata := [0xAA], payload := [] }

theorem witness_ContainerRoundTrip :
    let s : State := { State.reset with host := [.loadContainer (some (containerOf smallHeader))] }
    smallHeader.flags.toNat ≤ 1 ∧ smallHeader.cspace.toNat ≤ 1 ∧ smallHeader.chtype.toNat ≤ 12 ∧
      FormatKnown s.params smallHeader.fmt ∧ smallHeader.metadata.length < 2 ^ 32 ∧ smallHeader.payload.length < 2 ^ 32 ∧
      0 < smallHeader.metadata.length + smallHeader.payload.length ∧ s.unit.cmd = none ∧
      s.host = .loadContainer (some (containerOf smallHeader)) :: [] :=
  ⟨by decide, by decide, by decide, Or.inr (by decide), by decide, by decide, by decide, rfl, rfl⟩

/-- No buffer, a buffer of 52 bytes, a bad first byte; the least value outside each enumeration; an unknown code; and a
container cut one byte before its metadata ends, which is the shortest that reaches the checks of the second clause. -/
theorem witness_BadContainersAreRejected :
    (containerBytes.take 52).length ≤ 52 ∧ (containerBytes.set 0 0x51).take 4 ≠ [0x50, 0x56, 0x52, 0x03] ∧
    0 < smallHeader.metadata.length + smallHeader.payload.length ∧ 1 < (2 : Word32).toNat ∧ 12 < (13 : Word32).toNat ∧
    ¬ FormatKnown Config.defaultParams 27 ∧ FormatKnown Config.defaultParams smallHeader.fmt ∧
    (let h : Header := { smallHeader with metadata := [0xAA, 0xBB] }
     52 < 53 ∧ 53 < 52 + h.metadata.length ∧ h.metadata.length < 2 ^ 32) ∧
    (let s : State := { State.reset with host := [.loadContainer none] }
     s.host = .loadContainer none :: [] ∧ s.unit.cmd = none ∧ parseContainer s.params none = .error .malformedHeader) :=
  ⟨by decide, by decide, by decide, by decide, by decide, by unfold FormatKnown; decide, Or.inr (by decide),
    ⟨by decide, by decide, by decide⟩, rfl, rfl, rfl⟩

/-- To another unit, and to the unit the host drives already. -/
theorem witness_SelectKeepsEveryUnit :
    (twoUnits.unitId :: twoUnits.peers.map Prod.fst).Nodup ∧
    (∃ t, step { twoUnits with host := [.select 1] } = .next t) ∧
    ∃ t, step { twoUnits with host := [.select 0] } = .next t := ⟨by decide, ⟨_, rfl⟩, _, rfl⟩

theorem witness_HostReadsHaveNoEffect :
    ({ State.reset with host := [.read (.blkOut 31)] } : State).host = .read (.blkOut 31) :: [] ∧
    State.reset.unit.blkOut.get 31 = none := by decide

/-- Each write: a register, `FMT`, a latch load shorter and longer than the latch, and then at the last latch byte, at the last payload address, and at a word outside the target array. -/
theorem witness_HostWritesOneThing :
    State.reset.unit.cmd = none ∧
    ({ State.reset with host := [.setFmt 1] } : State).host = .setFmt 1 :: [] ∧
    ({ State.reset with host := [.set .ctrl 3] } : State).host = .set .ctrl 3 :: [] ∧
    ({ State.reset with host := [.writeBlkIn 31 1] } : State).host = .writeBlkIn 31 1 :: [] ∧
    ({ State.reset with host := [.loadBlkIn [1, 2]] } : State).host = .loadBlkIn [1, 2] :: [] ∧
    (let bytes : List Byte := List.replicate 33 1
     ({ State.reset with host := [.loadBlkIn bytes] } : State).host = .loadBlkIn bytes :: []) ∧
    ({ State.reset with host := [.writePayload 0xffffffff 1] } : State).host = .writePayload 0xffffffff 1 :: [] ∧
    ({ State.reset with host := [.loadPayload [1, 2]] } : State).host = .loadPayload [1, 2] :: [] ∧
    ([1, 2] : List Byte).length < 2 ^ 32 ∧ (∃ bytes : List Byte, 2 ^ 32 ≤ bytes.length) ∧
    ({ State.reset with host := [.writeTarget 7 1] } : State).host = .writeTarget 7 1 :: [] ∧
    ({ State.reset with host := [.bindTarget 1] } : State).host = .bindTarget 1 :: [] :=
  ⟨rfl, rfl, rfl, rfl, rfl, rfl, rfl, rfl, by decide, ⟨List.replicate (2 ^ 32) 0, by rw [List.length_replicate]⟩, rfl, rfl⟩

end Sys2Proof.Tests
end

section
/-! PROOF. O44: every channel and every alpha of the ETC datapath lies in `[0, 255]`. All paths but one end in `clamp255`;
the exception is the paint colour of a T block that is taken without a modifier, and its channels are 4-bit fields
replicated to 8 bits. -/

namespace Sys2Proof.Machine

/-! ## Bounds of the bit operations and of the clamp (R8, R10) -/

theorem bits_lt_two_pow {n : Nat} (v : BitVec n) (hi lo : Nat) : bits v hi lo < 2 ^ (hi + 1 - lo) :=
  Nat.mod_lt _ (Nat.two_pow_pos _)

theorem catBits_lt_two_pow {upper m lower width : Nat} (hu : upper < 2 ^ m) (hl : lower < 2 ^ width) :
    catBits upper width lower < 2 ^ (m + width) := by
  calc upper * 2 ^ width + lower
      < (upper + 1) * 2 ^ width := by rw [Nat.succ_mul]; omega
    _ ≤ 2 ^ m * 2 ^ width := Nat.mul_le_mul_right _ hu
    _ = 2 ^ (m + width) := (Nat.pow_add ..).symm

/-- The replication of a 4-bit field fits in a byte. -/
theorem rep4_le_of_lt {v : Nat} (h : v < 2 ^ 4) : rep4 v ≤ 255 := by
  have hshift : v <<< 4 < 2 ^ 8 := by rw [Nat.shiftLeft_eq]; omega
  have hor : rep4 v < 2 ^ 8 := Nat.or_lt_two_pow hshift (by omega)
  omega

theorem clamp255_le (v : Int) : clamp255 v ≤ 255 := by
  unfold clamp255
  omega

/-! ## Colours whose channels fit in bytes -/

/-- Each channel of a colour lies in `[0, 255]`. -/
def Rgb.FitsInBytes (c : Rgb) : Prop := c.r ≤ 255 ∧ c.g ≤ 255 ∧ c.b ≤ 255

/-- R12: whatever the base colour and the modifier are, the clamped sum fits. -/
theorem Rgb.addClamp_fitsInBytes (c : Rgb) (d : Int) : (c.addClamp d).FitsInBytes :=
  ⟨clamp255_le _, clamp255_le _, clamp255_le _⟩

/-- R87, R148: the fields of both colours of a T block are 4 bits wide, the split red field of the first included. -/
theorem tColour_fitsInBytes (w : Word64) (second : Bool) : (tColour w second).FitsInBytes := by
  cases second with
  | false =>
    have hred : catBits (bits w 60 59) 2 (bits w 57 56) < 2 ^ (2 + 2) :=
      catBits_lt_two_pow (bits_lt_two_pow w 60 59) (bits_lt_two_pow w 57 56)
    exact ⟨rep4_le_of_lt hred, rep4_le_of_lt (bits_lt_two_pow w 55 52), rep4_le_of_lt (bits_lt_two_pow w 51 48)⟩
  | true =>
    exact ⟨rep4_le_of_lt (bits_lt_two_pow w 47 44), rep4_le_of_lt (bits_lt_two_pow w 43 40),
      rep4_le_of_lt (bits_lt_two_pow w 39 36)⟩

/-- R150: `PAINT[0]` and `PAINT[2]` are the block's own colours, the other two are clamped. -/
theorem tPaint_fitsInBytes (w : Word64) (idx : Nat) : (tPaint w idx).FitsInBytes := by
  unfold tPaint
  split_ifs
  · exact tColour_fitsInBytes w false
  · exact Rgb.addClamp_fitsInBytes _ _
  · exact tColour_fitsInBytes w true
  · exact Rgb.addClamp_fitsInBytes _ _

/-- R151: all four paint colours of an H block are clamped. -/
theorem hPaint_fitsInBytes (w : Word64) (idx : Nat) : (hPaint w idx).FitsInBytes := by
  unfold hPaint
  split_ifs <;> exact Rgb.addClamp_fitsInBytes _ _

/-- R153: each channel of a planar pixel is clamped after the division. -/
theorem planarColour_fitsInBytes (w : Word64) (x y : Nat) : (planarColour w x y).FitsInBytes :=
  ⟨clamp255_le _, clamp255_le _, clamp255_le _⟩

/-! ## The colour and the alpha of an ETC pixel -/

theorem etcColour_fitsInBytes (f : EtcFormat) (w : Word64) (m : EtcMode) (x y : Nat) :
    (etcColour f w m x y).FitsInBytes := by
  cases m with
  | individual => exact Rgb.addClamp_fitsInBytes _ _
  | differential => exact Rgb.addClamp_fitsInBytes _ _
  | t => exact tPaint_fitsInBytes w _
  | h => exact hPaint_fitsInBytes w _
  | planar => exact planarColour_fitsInBytes w x y

/-- R156: an EAC alpha is clamped. -/
theorem eacAlpha_le (a : Word64) (x y : Nat) : eacAlpha a x y ≤ 255 := clamp255_le _

/-- Settles O44, by the mode of the colour block. -/
theorem etcValuesFitInBytes : Obligations.EtcValuesFitInBytes := by
  intro f w a m x y
  obtain ⟨hr, hg, hb⟩ := etcColour_fitsInBytes f w m x y
  exact ⟨hr, hg, hb, eacAlpha_le a x y⟩

end Sys2Proof.Machine
end

section
/-! PROOF. O11 and O10, the invariant of the machine: what a host access can do is said once (`AccessEffect`), what a
command can do is said once (`exec_next_cases`, `startDecode_next_cases`), and each of these keeps the invariant. -/

namespace Sys2Proof.Machine

/-! ## The parts of a unit's invariant -/

/-- An idle unit has no command word, no cursor, and nothing left to do (R23, R44). -/
theorem DecodeUnit.idle_eq_iff {u : DecodeUnit} :
    u.idle = u ↔ u.cmd = none ∧ u.cursor = none ∧ u.writes = [] ∧ u.insertion = none ∧ u.completion = none := by
  cases u
  simp [DecodeUnit.idle, eq_comm]

/-- The part of a unit's invariant that speaks of its report (R250). -/
structure DecodeUnit.ReportInv (u : DecodeUnit) : Prop where
  outcome : legalOutcome u.status u.faultInfo = true
  sticky : isRaiseStatus u.status = true → u.faultSeen = true
  result : (u.status = 3 → u.result = true) ∧ (u.status = 2 ∨ u.status = 4 ∨ u.status = 5 → u.result = false)

/-- The part of a unit's invariant that speaks of its payload memory (R50). -/
structure DecodeUnit.PayloadInv (u : DecodeUnit) : Prop where
  wf : Memory.wf u.payload = true
  addresses : ∀ c ∈ u.payload, c.1 < 2 ^ 32

theorem DecodeUnit.Inv.report {u : DecodeUnit} (h : u.Inv) : u.ReportInv := ⟨h.outcome, h.sticky, h.result⟩

theorem DecodeUnit.Inv.payload {u : DecodeUnit} (h : u.Inv) : u.PayloadInv := ⟨h.payloadWf, h.payloadAddresses⟩

theorem DecodeUnit.Inv.of_idle {u : DecodeUnit} (hi : u.idle = u) (hr : u.ReportInv) (hp : u.PayloadInv) : u.Inv :=
  ⟨.inl hi, hr.outcome, hr.sticky, hr.result, hp.wf, hp.addresses⟩

/-- A unit with no command in progress is idle. -/
theorem DecodeUnit.Inv.idle_of_cmd {u : DecodeUnit} (h : u.Inv) (hc : u.cmd = none) : u.idle = u := by
  rcases h.progress with hi | ⟨hcmd, -⟩
  · exact hi
  · simp [hc] at hcmd

/-- A payload memory written at an address of 32 bits keeps its invariant. -/
theorem DecodeUnit.PayloadInv.write {u v : DecodeUnit} (h : u.PayloadInv) {a : Nat} {b : Byte} (ha : a < 2 ^ 32)
    (hv : v.payload = Memory.write u.payload a b) : v.PayloadInv where
  wf := hv ▸ Memory.wf_write _ _ _ h.wf
  addresses := fun c hc => by
    rcases Memory.mem_write _ _ _ _ (hv ▸ hc) with rfl | hc
    · exact ha
    · exact h.addresses c hc

/-- Writes of consecutive cells list their own addresses and those listed before. -/
theorem mem_writeFrom {α : Type} (vs : List α) (m : List (Nat × α)) (a : Nat) (c : Nat × α)
    (h : c ∈ Memory.writeFrom m a vs) : c.1 < a + vs.length ∨ c ∈ m := by
  induction vs generalizing m a with
  | nil => exact .inr h
  | cons v rest ih =>
    rw [List.length_cons]
    rcases ih _ _ h with hlt | hm
    · exact .inl (by omega)
    · rcases Memory.mem_write _ _ _ _ hm with rfl | hm
      · exact .inl (by simp)
      · exact .inr hm

/-- A payload that fits in `PAYLOAD_LEN` and is loaded from address 0 keeps the invariant (R30, R50). -/
theorem DecodeUnit.PayloadInv.load {u v : DecodeUnit} (h : u.PayloadInv) {bytes : List Byte}
    (hf : payloadFits bytes = true) (hv : v.payload = Memory.writeFrom u.payload 0 bytes) : v.PayloadInv where
  wf := hv ▸ Memory.wf_writeFrom _ _ _ h.wf
  addresses := fun c hc => by
    have hlen : bytes.length < 2 ^ 32 := of_decide_eq_true hf
    rcases mem_writeFrom _ _ _ _ (hv ▸ hc) with hlt | hc
    · omega
    · exact h.addresses c hc

/-! ## The report of a completion, of a raise and of the RESET -/

/-- The `RESULT` that a completion writes agrees with its `STATUS` code (R255, R258). -/
structure CompletionReport (r : Option Bool) (k : Completion) : Prop where
  unimplemented : k = .unimplementedPixelFormat → r = some true
  invalid : k = .invalidDecodeArguments → r = some false

/-- A raise writes a pair of R250, and the codes that only a DECODE writes are a DECODE's. -/
structure RaiseReport (d : Bool) (e : ErrorKind) : Prop where
  legal : legalOutcome e.status e.info = true
  decode : d = true ∨ e.status = 6 ∨ e.status = 7

theorem CompletionReport.of_result {k : Completion} (h : k = .ok ∨ k = .unimplementedPixelFormat) :
    CompletionReport (some true) k := by
  rcases h with rfl | rfl <;> exact ⟨by simp, by simp⟩

theorem DecodeUnit.complete_reportInv (u : DecodeUnit) {r : Option Bool} {k : Completion} (h : CompletionReport r k) :
    (u.complete r k).ReportInv := by
  cases k with
  | ok => exact ⟨rfl, by simp [Completion.status, isRaiseStatus], by simp [Completion.status]⟩
  | unimplementedPixelFormat =>
    exact ⟨rfl, by simp [Completion.status, isRaiseStatus], by simp [Completion.status, h.unimplemented]⟩
  | invalidDecodeArguments =>
    exact ⟨rfl, by simp [Completion.status, isRaiseStatus], by simp [Completion.status, h.invalid]⟩

theorem ErrorKind.status_ne_three (e : ErrorKind) : e.status ≠ 3 := by cases e <;> simp [ErrorKind.status]

theorem DecodeUnit.raise_reportInv (u : DecodeUnit) {d : Bool} {e : ErrorKind} (h : RaiseReport d e) :
    (u.raise d e).ReportInv where
  outcome := h.legal
  sticky := fun _ => rfl
  result := by
    refine ⟨fun h3 => absurd h3 e.status_ne_three, fun hs => ?_⟩
    rcases h.decode with rfl | h6 | h7
    · rfl
    · simp [h6] at hs
    · simp [h7] at hs

/-- A completion leaves a unit that meets the invariant, whatever the command did before it. -/
theorem DecodeUnit.PayloadInv.complete {u : DecodeUnit} (hp : u.PayloadInv) {r : Option Bool} {k : Completion}
    (h : CompletionReport r k) : (u.complete r k).Inv := .of_idle rfl (u.complete_reportInv h) ⟨hp.wf, hp.addresses⟩

/-- So does a raise (R253). -/
theorem DecodeUnit.PayloadInv.raise {u : DecodeUnit} (hp : u.PayloadInv) {d : Bool} {e : ErrorKind}
    (h : RaiseReport d e) : (u.raise d e).Inv := .of_idle rfl (u.raise_reportInv h) ⟨hp.wf, hp.addresses⟩

/-- So does the RESET, which keeps the payload memory (R280). -/
theorem DecodeUnit.PayloadInv.reset {u : DecodeUnit} (hp : u.PayloadInv) : (resetDecodeUnit u).Inv :=
  .of_idle rfl ⟨rfl, by simp [resetDecodeUnit, resetUnit, isRaiseStatus], by simp [resetDecodeUnit, resetUnit]⟩
    ⟨hp.wf, hp.addresses⟩

/-! ## What a command can do -/

/-- `t` is `s` after effects of a command and before its end: `BLK_OUT`, the target memories and the cache may differ, the
memories keep their canonical form, and the cache its invariant. -/
structure State.Effects (s t : State) : Prop where
  unit : ∃ o, t.unit = s.unit.withBlkOut o
  unitId : t.unitId = s.unitId
  peers : t.peers = s.peers
  targets : targetsWf s.targets = true → targetsWf t.targets = true
  cache : CacheInv s.cache → CacheInv t.cache

theorem State.Effects.refl (s : State) : s.Effects s := ⟨⟨s.unit.blkOut, rfl⟩, rfl, rfl, id, id⟩

theorem State.Effects.withBlkOut (s : State) (o : Vector (Option Pixel) 32) :
    s.Effects (s.withUnit (s.unit.withBlkOut o)) := ⟨⟨o, rfl⟩, rfl, rfl, id, id⟩

theorem State.Effects.writeTargets {s t : State} (h : s.Effects t) (b : Nat) (ws : List (Nat × Word32)) :
    s.Effects (t.withTargets (writeTargets t.targets b ws)) :=
  { h with targets := fun hs => targetsWf_writeTargets ws (h.targets hs) b }

theorem State.Effects.withCache {s t : State} (h : s.Effects t) {c : List CacheEntry}
    (hc : CacheInv s.cache → CacheInv c) : s.Effects (t.withCache c) := { h with cache := hc }

theorem State.Effects.withGapOps {s t : State} (h : s.Effects t) (ops : List CacheOp) : s.Effects (t.withGapOps ops) :=
  { h with }

/-- How a command ends: it raises, or it completes after its effects. -/
inductive CommandEnd (s : State) : State → Prop where
  | raises {d : Bool} {e : ErrorKind} : RaiseReport d e → CommandEnd s (s.raise d e)
  | completes {t : State} {r : Option Bool} {k : Completion} :
      s.Effects t → CompletionReport r k → CommandEnd s (t.complete r k)

/-- The cache after the lookup of a DECODE, the operations of the gap and, on a miss, the insertion (R197, R265). -/
theorem CacheInv.afterDecode {c d : List CacheEntry} {id : Word32} {ops : List CacheOp} (h : CacheInv c)
    (hd : d = cacheApplyAll (cacheLookup c id).2 ops ∨
      ∃ bm, cacheFind c id = none ∧ d = cacheInsert (cacheApplyAll c ops) id bm) : CacheInv d := by
  rcases hd with rfl | ⟨bm, -, rfl⟩
  · exact .applyAll ops (h.lookup id)
  · exact (CacheInv.applyAll ops h).insert id bm

theorem decodeCommand_next {f : Word64} {s t : State} (h : decodeCommand f s = .next t) : CommandEnd s t := by
  rcases decodeCommand_cases f s with ⟨e, he, hl⟩ | he | ⟨k, hk, he⟩ | ⟨ws, k, hk, he⟩ | ⟨id, ws, d, -, he, hd⟩ | he <;>
    rw [he] at h
  · cases h
    exact .raises ⟨hl, .inl rfl⟩
  · cases h
    exact .completes (.refl s) ⟨by simp, by simp⟩
  · cases h
    exact .completes (.refl s) (.of_result hk)
  · cases h
    have heff := (State.Effects.refl s).writeTargets s.unit.binding ws
    rcases hk with rfl | rfl
    · exact .completes heff (.of_result (.inl rfl))
    · exact .completes heff (.of_result (.inr rfl))
  · cases h
    have heff := (((State.Effects.refl s).writeTargets s.unit.binding ws).withCache
      fun hc => hc.afterDecode hd).withGapOps []
    exact .completes heff (.of_result (.inl rfl))
  · cases h

theorem blockCommand_next {f : Word64} {s t : State} (h : blockCommand f s = .next t) : CommandEnd s t := by
  rcases blockProcedure_cases f s with ⟨-, he⟩ | ⟨-, -, he⟩ | ⟨c, -, -, he | ⟨bytes, -, he⟩⟩ <;>
    rw [blockCommand, he] at h <;> cases h
  · exact .raises ⟨rfl, .inr (.inr rfl)⟩
  · exact .raises ⟨rfl, .inr (.inl rfl)⟩
  · exact .raises ⟨rfl, .inr (.inr rfl)⟩
  · rw [← complete_block]
    exact .completes (.withBlkOut s _) ⟨by simp, by simp⟩

/-- Every command that answers a next state ends in it (R235, R253). -/
theorem exec_next {i : Instr} {s t : State} (h : exec i s = .next t) : CommandEnd s t := by
  rcases exec_cases i with ⟨f, he⟩ | ⟨f, he⟩ | he | he <;> rw [he] at h
  · exact decodeCommand_next h
  · exact blockCommand_next h
  · cases h
    exact .completes ((State.Effects.refl s).withCache fun _ => .nil) ⟨by simp, by simp⟩
  · cases h
    exact .raises ⟨rfl, .inr (.inl rfl)⟩

/-- What a DECODE in progress still has to do on the unit `u` (R59, R197). -/
structure PendingWork (u : DecodeUnit) (ws : List (Nat × Word32)) (e : Option (Word32 × Bitmap)) (k : Completion) :
    Prop where
  completion : k = .ok ∨ k = .unimplementedPixelFormat
  bound : ∀ w ∈ ws, w.1 < targetWords u
  insertion : ∀ x, e = some x → u.infoId = some x.1

/-- A DECODE that is started ends at once, or is left in progress (R62, R253, R265). -/
theorem startDecode_next {f : Word64} {s t : State} (h : startDecode f s = .next t) :
    CommandEnd s t ∨
    ∃ s' c ws e k, s.Effects s' ∧ s'.unit = s.unit ∧ PendingWork s.unit ws e k ∧ t = s'.pending c ws e k := by
  rcases decodeProcedure_cases f s with ⟨e, he, hl⟩ | he | ⟨k, hk, he⟩ | ⟨c, ws, k, g, r, px, hk, he, hw⟩ |
    ⟨id, c, ws, g, r, px, e, d, hid, he, hw, hd⟩ | he <;> rw [startDecode, he] at h <;> cases h
  · exact .inl (.raises ⟨hl, .inl rfl⟩)
  · exact .inl (.completes (.refl s) ⟨by simp, by simp⟩)
  · exact .inl (.completes (.refl s) (.of_result hk))
  · exact .inr ⟨s, c, ws, none, k, .refl s, rfl, ⟨hk, hw.bound, by simp⟩, rfl⟩
  · refine .inr ⟨(s.withCache d).withGapOps [], c, ws, e, .ok, ?_, rfl, ⟨.inl rfl, hw.bound, ?_⟩, rfl⟩
    · refine ((State.Effects.refl s).withCache fun hc => ?_).withGapOps []
      rcases hd with ⟨-, rfl⟩ | ⟨bm, -, -, rfl⟩
      · exact .applyAll _ (hc.lookup id)
      · exact .applyAll _ hc
    · rintro x rfl
      rcases hd with ⟨hx, -⟩ | ⟨bm, hx, -⟩ <;> cases hx
      exact hid

/-! ## What a host access can do -/

/-- `v` is `u` after a host write: the progress and the report of `u` are as they were, and its payload memory keeps its
invariant (R21, R50). -/
structure DecodeUnit.HostWrite (u v : DecodeUnit) : Prop where
  cmd : v.cmd = u.cmd := by rfl
  cursor : v.cursor = u.cursor := by rfl
  writes : v.writes = u.writes := by rfl
  insertion : v.insertion = u.insertion := by rfl
  completion : v.completion = u.completion := by rfl
  result : v.result = u.result := by rfl
  status : v.status = u.status := by rfl
  faultInfo : v.faultInfo = u.faultInfo := by rfl
  faultSeen : v.faultSeen = u.faultSeen := by rfl
  payload : u.PayloadInv → v.PayloadInv

/-- The effect that one access has where it is answered with a next state. -/
inductive AccessEffect (s : State) (e : HostEvent) : State → Prop where
  | nothing : AccessEffect s e s
  | unitWrite {v : DecodeUnit} : s.unit.cmd = none → s.unit.HostWrite v → AccessEffect s e (s.withUnit v)
  | targetWrite (i : Nat) (v : Word32) :
      AccessEffect s e (s.withTargets (writeTargetWord s.targets s.unit.binding i v))
  | gap (ops : List CacheOp) : AccessEffect s e (s.withGapOps ops)
  | select {k : Nat} {u : DecodeUnit} : k ≠ s.unitId → findPeer s.peers k = some u →
      AccessEffect s e { s with unitId := k, unit := u, peers := swapPeer s.peers k s.unitId s.unit }
  | reset : e = .reset → AccessEffect s e (resetAll s)
  | command {w : Word32} {t : State} : CommandEnd (issue s w) t → AccessEffect s e t
  | start {f : Word64} {t : State} : startDecode f (issue s 0) = .next t → AccessEffect s e t
  | proceed (p : Progress) : AccessEffect s e (s.proceed p)

theorem DecodeUnit.HostWrite.setConfig (u : DecodeUnit) (r : ConfigReg) (v : Word32) : u.HostWrite (u.setConfig r v) := by
  refine ⟨by simp, by simp, by simp, by simp, by simp, by simp, by simp, by simp, by simp, fun h => ?_⟩
  have hp := u.setConfig_payload r v
  exact ⟨hp ▸ h.wf, hp ▸ h.addresses⟩

theorem DecodeUnit.HostWrite.loadPayload (u : DecodeUnit) {bytes : List Byte} (h : payloadFits bytes = true) :
    u.HostWrite (loadPayload u bytes) :=
  { payload := fun hp => hp.load h rfl }

theorem DecodeUnit.HostWrite.loadHeader (u : DecodeUnit) {c : Header} (h : payloadFits c.payload = true) :
    u.HostWrite (loadHeader u c) :=
  { payload := fun hp => hp.load h rfl }

theorem selectUnit_next {s t : State} {e : HostEvent} {k : Nat} (h : selectUnit s k = .next t) : AccessEffect s e t := by
  rcases selectUnit_cases s k with ⟨-, he⟩ | ⟨hk, u, hu, he⟩ | ⟨-, -, he⟩ <;> rw [he] at h <;> cases h
  · exact .nothing
  · exact .select hk hu

/-- An access that is answered with a next state is admitted, and finds an idle unit where it needs one (R268, R285). -/
theorem admittedAccess_of_hostAccess_next {s t : State} {e : HostEvent} (h : hostAccess s e = .next t) :
    admittedAccess s e = .next t ∧ (needsIdleUnit e = true → s.unit.cmd = none) := by
  by_cases hc : s.unit.cmd = none
  · exact ⟨hostAccess_idle hc e ▸ h, fun _ => hc⟩
  · cases he : needsIdleUnit e with
    | true => rw [hostAccess_busy hc he] at h; cases h
    | false => exact ⟨hostAccess_free he s ▸ h, by simp⟩

/-- What one access can do, said once. -/
theorem hostAccess_next {s t : State} {e : HostEvent} (h : hostAccess s e = .next t) : AccessEffect s e t := by
  obtain ⟨h, hidle⟩ := admittedAccess_of_hostAccess_next h
  cases e with
  | setFmt v =>
    cases h
    exact .unitWrite (hidle rfl) { payload := fun hp => ⟨hp.wf, hp.addresses⟩ }
  | set r v =>
    cases h
    exact .unitWrite (hidle rfl) (.setConfig _ r v)
  | writeBlkIn i v =>
    cases h
    exact .unitWrite (hidle rfl) { payload := fun hp => ⟨hp.wf, hp.addresses⟩ }
  | loadBlkIn bytes =>
    cases h
    exact .unitWrite (hidle rfl) { payload := fun hp => ⟨hp.wf, hp.addresses⟩ }
  | writePayload a v =>
    cases h
    exact .unitWrite (hidle rfl) { payload := fun hp => hp.write a.isLt rfl }
  | loadPayload bytes =>
    rw [admittedAccess_loadPayload] at h
    split at h <;> cases h
    next hf => exact .unitWrite (hidle rfl) (.loadPayload _ hf)
  | writeTarget i v =>
    cases h
    exact .targetWrite i v
  | loadContainer buffer =>
    rcases admittedAccess_loadContainer s buffer with ⟨c, -, he⟩ | ⟨-, -, he⟩ <;> rw [he] at h
    · split at h <;> cases h
      next hf => exact .unitWrite (hidle rfl) (.loadHeader _ hf)
    · cases h
      exact .nothing
  | read q =>
    rcases admittedAccess_read s q with he | ⟨-, -, -, he⟩ <;> rw [he] at h <;> cases h
    exact .nothing
  | select k => exact selectUnit_next h
  | gap ops =>
    cases h
    exact .gap _
  | reset =>
    rw [admittedAccess_reset] at h
    split at h <;> cases h
    exact .reset rfl
  | bindTarget b =>
    cases h
    exact .unitWrite (hidle rfl) { payload := fun hp => ⟨hp.wf, hp.addresses⟩ }
  | cmd w => exact .command (exec_next h)
  | start w =>
    rw [admittedAccess_start] at h
    split at h
    · exact .start h
    · exact .command (exec_next h)
  | proceed p =>
    cases h
    exact .proceed p

/-- A step does nothing, or it is one access of the host. -/
theorem step_next {s t : State} (h : step s = .next t) :
    t = s ∨ ∃ e rest, s.host = e :: rest ∧ AccessEffect (s.withHost rest) e t := by
  cases hh : s.host with
  | nil =>
    rw [turn_idle hh] at h
    cases h
    exact .inl rfl
  | cons e rest =>
    rw [turn_cons hh] at h
    exact .inr ⟨e, rest, rfl, hostAccess_next h⟩

/-! ## Each of them keeps the invariant -/

/-- What holds of the machine once a command is issued: its invariant but for the report and the progress of the unit that
the host drives. -/
structure State.IssuedInv (s : State) : Prop where
  payload : s.unit.PayloadInv
  peers : ∀ p ∈ s.peers, p.2.Inv
  targets : targetsWf s.targets = true
  cache : CacheInv s.cache
  numbers : (s.unitId :: s.peers.map Prod.fst).Nodup

theorem State.Inv.issue {s : State} (h : s.Inv) (w : Word32) : (issue s w).IssuedInv :=
  ⟨⟨h.unit.payloadWf, h.unit.payloadAddresses⟩, h.peers, h.targets, h.cache, h.numbers⟩

theorem State.Inv.withUnit {s : State} (h : s.Inv) {u : DecodeUnit} (hu : u.Inv) : (s.withUnit u).Inv :=
  ⟨hu, h.peers, h.targets, h.cache, h.numbers⟩

theorem State.IssuedInv.withUnit {s : State} (h : s.IssuedInv) {u : DecodeUnit} (hu : u.Inv) : (s.withUnit u).Inv :=
  ⟨hu, h.peers, h.targets, h.cache, h.numbers⟩

theorem State.Effects.issuedInv {s t : State} (he : s.Effects t) (h : s.IssuedInv) : t.IssuedInv where
  payload := by
    obtain ⟨o, ho⟩ := he.unit
    rw [ho]
    exact ⟨h.payload.wf, h.payload.addresses⟩
  peers := he.peers ▸ h.peers
  targets := he.targets h.targets
  cache := he.cache h.cache
  numbers := by rw [he.unitId, he.peers]; exact h.numbers

/-- The end of a command leaves a machine that meets the invariant. -/
theorem CommandEnd.inv {s t : State} (he : CommandEnd s t) (h : s.IssuedInv) : t.Inv := by
  cases he with
  | raises hr => exact h.withUnit (h.payload.raise hr)
  | completes heff hr => exact (heff.issuedInv h).withUnit ((heff.issuedInv h).payload.complete hr)

/-- A DECODE left in progress meets the invariant (R59, R197). -/
theorem startDecode_keepsInv {f : Word64} {s t : State} (h : s.Inv) (hd : startDecode f (issue s 0) = .next t) :
    t.Inv := by
  rcases startDecode_next hd with he | ⟨s', c, ws, e, k, heff, hunit, hw, rfl⟩
  · exact he.inv (h.issue 0)
  · refine (heff.issuedInv (h.issue 0)).withUnit ?_
    rw [hunit]
    exact
      { progress := .inr ⟨rfl, hw.completion.imp (congrArg some) (congrArg some), hw.bound, hw.insertion⟩
        outcome := h.unit.outcome, sticky := h.unit.sticky, result := h.unit.result
        payloadWf := h.unit.payloadWf, payloadAddresses := h.unit.payloadAddresses }

/-- A host write to an idle unit keeps the unit's invariant. -/
theorem DecodeUnit.HostWrite.inv {u v : DecodeUnit} (hw : u.HostWrite v) (hc : u.cmd = none) (h : u.Inv) : v.Inv := by
  obtain ⟨-, hcursor, hwrites, hinsertion, hcompletion⟩ := DecodeUnit.idle_eq_iff.mp (h.idle_of_cmd hc)
  refine .of_idle (DecodeUnit.idle_eq_iff.mpr ⟨hw.cmd.trans hc, hw.cursor.trans hcursor, hw.writes.trans hwrites,
    hw.insertion.trans hinsertion, hw.completion.trans hcompletion⟩) ⟨?_, ?_, ?_⟩ (hw.payload h.payload)
  · rw [hw.status, hw.faultInfo]; exact h.outcome
  · rw [hw.status, hw.faultSeen]; exact h.sticky
  · rw [hw.status, hw.result]; exact h.result

/-- The insertion made, the rest of the command in progress is still as the invariant says. -/
theorem DecodeUnit.Inv.withInsertion_none {u : DecodeUnit} (h : u.Inv) : (u.withInsertion none).Inv where
  progress := by
    rcases h.progress with hi | ⟨hcmd, hk, hws, -⟩
    · obtain ⟨hcmd, hcursor, hwrites, -, hcompletion⟩ := DecodeUnit.idle_eq_iff.mp hi
      exact .inl (DecodeUnit.idle_eq_iff.mpr ⟨hcmd, hcursor, hwrites, rfl, hcompletion⟩)
    · exact .inr ⟨hcmd, hk, hws, by simp⟩
  outcome := h.outcome
  sticky := h.sticky
  result := h.result
  payloadWf := h.payloadWf
  payloadAddresses := h.payloadAddresses

/-- So it is with one pixel write made. -/
theorem DecodeUnit.Inv.eraseWrite {u : DecodeUnit} (h : u.Inv) (n : Nat) : (u.withWrites (u.writes.eraseIdx n)).Inv where
  progress := by
    rcases h.progress with hi | ⟨hcmd, hk, hws, he⟩
    · obtain ⟨hcmd, hcursor, hwrites, hinsertion, hcompletion⟩ := DecodeUnit.idle_eq_iff.mp hi
      exact .inl (DecodeUnit.idle_eq_iff.mpr ⟨hcmd, hcursor, by simp [hwrites], hinsertion, hcompletion⟩)
    · exact .inr ⟨hcmd, hk, fun w hw => hws w (List.mem_of_mem_eraseIdx hw), he⟩
  outcome := h.outcome
  sticky := h.sticky
  result := h.result
  payloadWf := h.payloadWf
  payloadAddresses := h.payloadAddresses

theorem State.Inv.insertNow {s : State} (h : s.Inv) : s.insertNow.Inv := by
  rcases insertNow_cases s with ⟨-, he⟩ | ⟨e, -, he⟩ <;> rw [he]
  · exact h
  · exact ⟨h.unit.withInsertion_none, h.peers, h.targets, h.cache.insert _ _, h.numbers⟩

theorem State.Inv.writeNow {s : State} (h : s.Inv) (n : Nat) : (s.writeNow n).Inv := by
  rcases writeNow_cases s n with ⟨-, he⟩ | ⟨w, -, he⟩ <;> rw [he]
  · exact h
  · exact ⟨h.unit.eraseWrite n, h.peers, targetsWf_writeTargetWord h.targets _ _ _, h.cache, h.numbers⟩

theorem State.Inv.writeRest {s : State} (h : s.Inv) {k : Completion} (hk : CompletionReport (some true) k) :
    (s.writeRest k).Inv :=
  ⟨h.unit.payload.complete hk, h.peers, targetsWf_writeTargets _ h.targets _, h.cache, h.numbers⟩

/-- A command in progress completes as a DECODE that decodes or fills does (R250). -/
theorem DecodeUnit.Inv.completionReport {u : DecodeUnit} (h : u.Inv) {k : Completion} (hk : u.completion = some k) :
    CompletionReport (some true) k := by
  rcases h.progress with hi | ⟨-, hok, -⟩
  · obtain ⟨-, -, -, -, hnone⟩ := DecodeUnit.idle_eq_iff.mp hi
    simp [hk] at hnone
  · exact .of_result (by simpa [hk] using hok)

/-- The steps of a command in progress keep the invariant (R62, R265). -/
theorem State.Inv.proceed {s : State} (h : s.Inv) (p : Progress) : (s.proceed p).Inv := by
  rcases proceed_cases s p with ⟨-, he⟩ | ⟨k, hk, ⟨-, he⟩ | ⟨n, -, he⟩ | ⟨-, he⟩⟩ <;> rw [he]
  · exact h
  · exact h.insertNow
  · exact h.insertNow.writeNow n
  · exact h.insertNow.writeRest (h.unit.completionReport hk)

theorem State.Inv.select {s : State} (h : s.Inv) {k : Nat} {u : DecodeUnit} (hu : findPeer s.peers k = some u) :
    State.Inv { s with unitId := k, unit := u, peers := swapPeer s.peers k s.unitId s.unit } where
  unit := h.peers _ (findPeer_mem hu)
  peers := fun p hp => by
    rcases mem_swapPeer hp with rfl | hp
    · exact h.unit
    · exact h.peers p hp
  targets := h.targets
  cache := h.cache
  numbers := (swapPeer_perm hu).nodup_iff.mpr h.numbers

theorem State.Inv.resetAll {s : State} (h : s.Inv) : (resetAll s).Inv where
  unit := h.unit.payload.reset
  peers := fun p hp => by
    obtain ⟨q, hq, rfl⟩ := List.mem_map.mp hp
    exact (h.peers q hq).payload.reset
  targets := h.targets
  cache := .nil
  numbers := by
    have hkeys : (Machine.resetAll s).peers.map Prod.fst = s.peers.map Prod.fst := by
      simp [Machine.resetAll, Function.comp_def]
    rw [hkeys]
    exact h.numbers

theorem AccessEffect.keepsInv {s t : State} {e : HostEvent} (he : AccessEffect s e t) (h : s.Inv) : t.Inv := by
  cases he with
  | nothing => exact h
  | unitWrite hc hw => exact h.withUnit (hw.inv hc h.unit)
  | targetWrite i v => exact ⟨h.unit, h.peers, targetsWf_writeTargetWord h.targets _ _ _, h.cache, h.numbers⟩
  | gap ops => exact ⟨h.unit, h.peers, h.targets, h.cache, h.numbers⟩
  | select _ hu => exact h.select hu
  | reset _ => exact h.resetAll
  | command hend => exact hend.inv (h.issue _)
  | start hd => exact startDecode_keepsInv h hd
  | proceed p => exact h.proceed p

/-- Settles O11, by the effect of the one access a step takes. -/
theorem stepKeepsInvariant : Obligations.StepKeepsInvariant := by
  intro s t hs h
  rcases step_next h with rfl | ⟨e, rest, -, he⟩
  · exact hs
  · exact he.keepsInv ⟨hs.unit, hs.peers, hs.targets, hs.cache, hs.numbers⟩

/-- Settles O10: reset leaves an idle unit, empty memories and an empty cache. -/
theorem resetMeetsInvariant : Obligations.ResetMeetsInvariant where
  unit := DecodeUnit.PayloadInv.reset (u := resetUnit [] 0) ⟨rfl, by simp [resetUnit]⟩
  peers := by simp [State.reset]
  targets := State.reset_memories_wf.2
  cache := .nil
  numbers := by simp [State.reset]

end Sys2Proof.Machine
end

section
/-! PROOF. O17: `FAULT_SEEN` of every unit through each effect that an access can have. -/

namespace Sys2Proof.Machine

/-! ## The unit that the host drives -/

/-- `t` has the units of `s`, and the unit that the host drives has kept a `FAULT_SEEN` that was set. -/
structure State.KeepsFaultSeen (s t : State) : Prop where
  unitId : t.unitId = s.unitId
  peers : t.peers = s.peers
  seen : s.unit.faultSeen = true → t.unit.faultSeen = true

/-- A command sets `FAULT_SEEN` or leaves it as it was (R39, R253). -/
theorem CommandEnd.keepsFaultSeen {s t : State} (h : CommandEnd s t) : s.KeepsFaultSeen t := by
  cases h with
  | raises _ => exact ⟨rfl, rfl, fun _ => rfl⟩
  | completes heff _ =>
    obtain ⟨o, ho⟩ := heff.unit
    exact ⟨heff.unitId, heff.peers, fun hs => by simpa [ho] using hs⟩

/-- A command that ends with the `STATUS` of a raise has set `FAULT_SEEN`: no completion writes such a `STATUS` (R250). -/
theorem CommandEnd.faultSeen_of_raiseStatus {s t : State} (h : CommandEnd s t)
    (hs : isRaiseStatus t.unit.status = true) : t.unit.faultSeen = true := by
  cases h with
  | raises _ => rfl
  | @completes t' r k _ hr => exact (t'.unit.complete_reportInv hr).sticky hs

theorem startDecode_keepsFaultSeen {f : Word64} {s t : State} (h : startDecode f s = .next t) : s.KeepsFaultSeen t := by
  rcases startDecode_next h with he | ⟨s', c, ws, e, k, heff, hunit, -, rfl⟩
  · exact he.keepsFaultSeen
  · exact ⟨heff.unitId, heff.peers, fun hs => (congrArg DecodeUnit.faultSeen hunit).trans hs⟩

theorem insertNow_keepsFaultSeen (s : State) : s.KeepsFaultSeen s.insertNow :=
  ⟨insertNow_unitId s, insertNow_peers s, by simp⟩

theorem State.KeepsFaultSeen.writeNow {s t : State} (h : s.KeepsFaultSeen t) (n : Nat) :
    s.KeepsFaultSeen (t.writeNow n) := by
  rcases writeNow_cases t n with ⟨-, he⟩ | ⟨w, -, he⟩ <;> rw [he]
  · exact h
  · exact ⟨h.unitId, h.peers, h.seen⟩

theorem State.KeepsFaultSeen.writeRest {s t : State} (h : s.KeepsFaultSeen t) (k : Completion) :
    s.KeepsFaultSeen (t.writeRest k) := ⟨h.unitId, h.peers, h.seen⟩

/-- The steps of a command in progress leave `FAULT_SEEN` as it was (R62, R63). -/
theorem proceed_keepsFaultSeen (s : State) (p : Progress) : s.KeepsFaultSeen (s.proceed p) := by
  rcases proceed_cases s p with ⟨-, he⟩ | ⟨k, -, ⟨-, he⟩ | ⟨n, -, he⟩ | ⟨-, he⟩⟩ <;> rw [he]
  · exact ⟨rfl, rfl, id⟩
  · exact insertNow_keepsFaultSeen s
  · exact (insertNow_keepsFaultSeen s).writeNow n
  · exact (insertNow_keepsFaultSeen s).writeRest k

/-! ## Any unit -/

/-- The turn to another unit moves no unit but the two it exchanges (R271). -/
theorem findPeer_swapPeer {peers : List (Nat × DecodeUnit)} {k n j : Nat} {u w : DecodeUnit}
    (hn : n ∉ peers.map Prod.fst) (hk : findPeer peers k = some w) (hj : j ≠ k) :
    findPeer (swapPeer peers k n u) j = if j = n then some u else findPeer peers j := by
  induction peers with
  | nil => cases hk
  | cons p rest ih =>
    obtain ⟨m, v⟩ := p
    rw [List.map_cons, List.mem_cons, not_or] at hn
    by_cases hm : m = k
    · simp [swapPeer, findPeer, hm, hj.symm, eq_comm]
    · rw [findPeer, if_neg hm] at hk
      rw [swapPeer, if_neg hm, findPeer, findPeer, ih hn.2 hk]
      by_cases hmj : m = j
      · have hjn : j ≠ n := fun h => hn.1 (h.symm.trans hmj.symm)
        rw [if_pos hmj, if_pos hmj, if_neg hjn]
      · rw [if_neg hmj, if_neg hmj]

/-- The turn to another unit leaves every number with its unit (R271). -/
theorem unitOf_select {s : State} {k : Nat} {u : DecodeUnit} (hn : (s.unitId :: s.peers.map Prod.fst).Nodup)
    (hk : k ≠ s.unitId) (hu : findPeer s.peers k = some u) (j : Nat) :
    State.unitOf { s with unitId := k, unit := u, peers := swapPeer s.peers k s.unitId s.unit } j = s.unitOf j := by
  by_cases hj : j = k
  · subst hj
    simp [State.unitOf, hk, hu]
  · simp [State.unitOf, hj, findPeer_swapPeer (List.nodup_cons.mp hn).1 hu hj]

/-- Every unit keeps a `FAULT_SEEN` that was set, where the unit the host drives does. -/
theorem State.KeepsFaultSeen.unitOf {s t : State} (h : s.KeepsFaultSeen t) {k : Nat} {u : DecodeUnit}
    (hu : s.unitOf k = some u) (hs : u.faultSeen = true) : ∃ v, t.unitOf k = some v ∧ v.faultSeen = true := by
  unfold State.unitOf at hu ⊢
  rw [h.unitId, h.peers]
  split at hu
  · next hk =>
    cases hu
    exact ⟨t.unit, if_pos hk, h.seen hs⟩
  · next hk => exact ⟨u, (if_neg hk).trans hu, hs⟩

/-- No access but a RESET clears the `FAULT_SEEN` of any unit (R39). -/
theorem AccessEffect.keepsFaultSeen {s t : State} {e : HostEvent} (he : AccessEffect s e t)
    (hn : (s.unitId :: s.peers.map Prod.fst).Nodup) (hreset : e ≠ .reset) {k : Nat} {u : DecodeUnit}
    (hu : s.unitOf k = some u) (hs : u.faultSeen = true) : ∃ v, t.unitOf k = some v ∧ v.faultSeen = true := by
  cases he with
  | nothing => exact ⟨u, hu, hs⟩
  | @unitWrite v _ hw =>
    have hkeep : s.KeepsFaultSeen (s.withUnit v) := ⟨rfl, rfl, fun hseen => hw.faultSeen.trans hseen⟩
    exact hkeep.unitOf hu hs
  | targetWrite i v => exact ⟨u, hu, hs⟩
  | gap ops => exact ⟨u, hu, hs⟩
  | select hk hp => exact ⟨u, (unitOf_select hn hk hp k).trans hu, hs⟩
  | reset h => exact absurd h hreset
  | @command w t hend =>
    have hkeep : s.KeepsFaultSeen t := { hend.keepsFaultSeen with }
    exact hkeep.unitOf hu hs
  | @start f t hd =>
    have hkeep : s.KeepsFaultSeen t := { startDecode_keepsFaultSeen hd with }
    exact hkeep.unitOf hu hs
  | proceed p => exact (proceed_keepsFaultSeen s p).unitOf hu hs

/-- Settles O17, by how a command ends and by the effect of the one access a step takes. -/
theorem faultSeenIsSticky : Obligations.FaultSeenIsSticky := by
  refine ⟨fun i s t h => (exec_next h).faultSeen_of_raiseStatus, fun s t k u hn h hreset hu hs => ?_, rfl⟩
  rcases step_next h with rfl | ⟨e, rest, hh, he⟩
  · exact ⟨u, hu, hs⟩
  · exact he.keepsFaultSeen hn (fun hr => hreset rest (hr ▸ hh)) hu hs

end Sys2Proof.Machine
end

section
/-! PROOF. O59, O5, O60 and O8: what a step does for one write, one command and one read of the host, and the reset
values. -/

namespace Sys2Proof.Machine

/-! ## A step is the host's next access -/

theorem step_of_idle {s : State} {e : HostEvent} {rest : List HostEvent} (hh : s.host = e :: rest)
    (hc : s.unit.cmd = none) : step s = admittedAccess (s.withHost rest) e :=
  (turn_cons hh).trans (hostAccess_idle (s := s.withHost rest) hc e)

theorem step_of_free {s : State} {e : HostEvent} {rest : List HostEvent} (hh : s.host = e :: rest)
    (he : needsIdleUnit e = false) : step s = admittedAccess (s.withHost rest) e :=
  (turn_cons hh).trans (hostAccess_free he _)

/-! ## O59: the writes of the host -/

/-- A register write changes no field but the 32-bit configuration registers. -/
theorem setConfig_withRegistersOf (u : DecodeUnit) (r : ConfigReg) (v : Word32) :
    (u.setConfig r v).withRegistersOf u = u := by cases r <;> rfl

/-- One latch byte written (R35). -/
theorem vector_get_set {α : Type} (l : Vector α 32) (i j : Fin 32) (v : α) :
    (l.set i.val v).get j = if j = i then v else l.get j := by
  simp only [Vector.get_eq_getElem, Vector.getElem_set, Fin.ext_iff, eq_comm]

/-- A latch load writes the bytes of its list that have an entry (R35, R75). -/
theorem writeLatch_zero_get {α : Type} (l : Vector (Option α) 32) (vs : List α) (j : Fin 32) :
    (writeLatch l 0 vs).get j = if j.val < vs.length then vs[j.val]? else l.get j := by
  simpa [Vector.get_eq_getElem] using writeLatch_getElem vs l 0 j.val j.isLt

/-- The memory after a load from address 0 (R50, R75). -/
theorem read_writeFrom_zero {α : Type} (vs : List α) (m : List (Nat × α)) (b : Nat) :
    Memory.read (Memory.writeFrom m 0 vs) b = if b < vs.length then vs[b]? else Memory.read m b := by
  simpa using Memory.read_writeFrom vs m 0 b

theorem step_loadPayload {s : State} {bytes : List Byte} {rest : List HostEvent} (hh : s.host = .loadPayload bytes :: rest)
    (hc : s.unit.cmd = none) :
    step s = if bytes.length < 2 ^ 32 then .next ((s.withHost rest).withUnit (loadPayload s.unit bytes))
      else .refused .payloadTooLong := by
  rw [step_of_idle hh hc, admittedAccess_loadPayload]
  simp only [payloadFits, decide_eq_true_eq, State.withHost]

/-- Settles O59, one write of the host after the other. -/
theorem hostWritesOneThing : Obligations.HostWritesOneThing := by
  refine ⟨?setFmt, ?set, ?writeBlkIn, ?loadBlkIn, ?writePayload, ?loadPayload, ?writeTarget, ?bindTarget⟩
  case setFmt => exact fun s v rest hh hc => step_of_idle hh hc
  case set =>
    exact fun s r v rest hh hc =>
      ⟨_, step_of_idle hh hc, fun q => s.unit.setConfig_config r q v, setConfig_withRegistersOf s.unit r v⟩
  case writeBlkIn =>
    exact fun s i v rest hh hc => ⟨_, step_of_idle hh hc, fun j => vector_get_set s.unit.blkIn i j (some v)⟩
  case loadBlkIn =>
    exact fun s bytes rest hh hc => ⟨_, step_of_idle hh hc, writeLatch_zero_get s.unit.blkIn bytes⟩
  case writePayload =>
    exact fun s a v rest hh hc =>
      ⟨_, step_of_idle hh hc, fun b => Memory.read_write s.unit.payload a.toNat b v⟩
  case loadPayload =>
    refine fun s bytes rest hh hc => ⟨fun hlen => ?_, fun hlen => ?_⟩
    · refine ⟨Memory.writeFrom s.unit.payload 0 bytes, BitVec.ofNat 32 bytes.length, ?_, ?_, ?_⟩
      · exact (step_loadPayload hh hc).trans (if_pos hlen)
      · exact Nat.mod_eq_of_lt hlen
      · exact read_writeFrom_zero bytes s.unit.payload
    · exact (step_loadPayload hh hc).trans (if_neg (by omega))
  case writeTarget =>
    refine fun s i v rest hh => ⟨_, step_of_free hh rfl, fun a => ?_, fun c hb => ?_⟩
    · exact (congrArg (Memory.read · a) (targetOf_writeTargetWord s.targets _ _ i v)).trans
        ((congrArg (Memory.read · a) (if_pos rfl)).trans (Memory.read_write s.target i a v))
    · exact (targetOf_writeTargetWord s.targets _ c i v).trans (if_neg hb)
  case bindTarget => exact fun s b rest hh hc => step_of_idle hh hc

/-! ## O5: the command that a step runs -/

/-- The lower half of a format word whose upper half is empty is the word itself (R24). -/
theorem fmtLo_toNat_of_fmtHi {f : Word64} (h : fmtHi f = 0) : (fmtLo f).toNat = f.toNat := by
  have hhi : (fmtHi f).toNat = 0 := by simp [h]
  have hlt := f.isLt
  simp only [fmtHi, fmtLo, BitVec.extractLsb'_toNat, Nat.shiftRight_eq_div_pow] at hhi ⊢
  omega

/-- A format word with a code in its upper half is a custom one (R73). -/
theorem two_pow_le_of_fmtHi {f : Word64} (h : fmtHi f ≠ 0) : 2 ^ 32 ≤ f.toNat := by
  by_contra hlt
  refine h (BitVec.eq_of_toNat_eq ?_)
  have hhi : f.toNat / 2 ^ 32 % 2 ^ 32 = 0 := by omega
  rw [fmtHi, BitVec.extractLsb'_toNat, Nat.shiftRight_eq_div_pow]
  exact hhi

/-- A format word past the named codes decodes to a code with no row, or to a custom format (R72, R73). -/
theorem decodeOfFormat_wellFormed (f : Word64) : (decodeOfFormat f).wellFormed = true := by
  unfold decodeOfFormat
  split <;> try rfl
  split_ifs with hhi
  · simp only [Instr.wellFormed, lastNamedFormat, decide_eq_true_eq, fmtLo_toNat_of_fmtHi hhi]
    simp only [imp_false] at *
    omega
  · exact decide_eq_true (two_pow_le_of_fmtHi hhi)

/-- A format word that is none of the codes with a block datapath decodes to `BLOCK.ILLEGAL` (R234). -/
theorem blockOfFormat_wellFormed (f : Word64) : (blockOfFormat f).wellFormed = true := by
  unfold blockOfFormat
  split <;> try rfl
  simp only [Instr.wellFormed, blockFormatCodes, Bool.not_eq_true', List.contains_eq_mem, decide_eq_false_iff_not,
    List.mem_cons, List.not_mem_nil, or_false]
  simp only [imp_false] at *
  omega

theorem decodeCommandWord_wellFormed (f : Word64) (w : Word32) : (decodeCommandWord f w).wellFormed = true := by
  unfold decodeCommandWord
  split_ifs with h0 h1 h2
  · exact decodeOfFormat_wellFormed f
  · exact blockOfFormat_wellFormed f
  · rfl
  · simp only [Instr.wellFormed, decide_eq_true_eq]
    bv_omega

/-- Settles O5: the access is the command's, and the decoder answers with well-formed instructions only. -/
theorem stepRunsDecodedCommand : Obligations.StepRunsDecodedCommand := by
  intro s f w rest hh hf hc
  refine ⟨decodeCommandWord_wellFormed _ _, ?_⟩
  have hfmt : dispatchFmt (s.withHost rest).unit = f := by simp [dispatchFmt, hf]
  rw [step_of_idle hh hc, admittedAccess_cmd, hfmt]
  rfl

/-! ## O60: the reads of the host -/

/-- Settles O60: a read changes nothing but the queue of accesses to come, or is refused for want of a value. -/
theorem hostReadsHaveNoEffect : Obligations.HostReadsHaveNoEffect := by
  intro s q rest hh
  rw [step_of_free hh rfl]
  exact admittedAccess_read (s.withHost rest) q

/-! ## O8: the reset values -/

/-- Settles O8, field by field. -/
theorem resetValues : Obligations.ResetValues := by
  refine ⟨rfl, fun r => ?config, Vector.get_replicate 32 none, rfl, rfl, rfl, rfl, rfl, Vector.get_replicate 32 none,
    rfl, rfl, rfl, rfl, rfl, fun i => ?read⟩
  case config => cases r <;> rfl
  case read =>
    have hnone : State.reset.unit.blkOut.get i = none := Vector.get_replicate 32 none i
    simp [hostRead, hnone, valueOf]

end Sys2Proof.Machine
end

section
/-! PROOF. O23 and O24: the two checks of a DECODE before its accesses. The target check is the entry's last; the payload
checks are the block decoder's first. -/

namespace Sys2Proof.Machine

/-! ## The class of a format and the geometry of a unit -/

/-- A code with a datapath has a decoder's class (R72). -/
theorem datapathOf_ne_unknown (n : Nat) : datapathOf n ≠ some .unknown := by
  unfold datapathOf
  split <;> simp

/-- A format that is known has a class: custom formats are of class FALLBACK, and a code of `KNOWN_FORMATS` takes its
decoder's class or FALLBACK (R221). -/
theorem FormatKnown.classOf_ne_unknown {p : Config.Params} {fmt : Word64} (h : FormatKnown p fmt) :
    classOf p fmt ≠ .unknown := by
  by_cases hc : 2 ^ 32 ≤ fmt.toNat
  · simp [classOf_custom p hc]
  · have hk : isKnown p fmt.toNat = true := by simpa [isKnown] using h.resolve_left hc
    have hfmt : fmt = BitVec.ofNat 64 fmt.toNat := by simp
    rw [hfmt, classOf_named p (by omega), if_neg (by simp [hk])]
    split
    · split <;> simp
    · next c _ hd => rintro rfl; exact datapathOf_ne_unknown _ hd
    · simp

/-- A ready entry reads the geometry (R220). -/
theorem EntryReady.readGeometry_eq {u : DecodeUnit} {g : Geometry} (h : EntryReady u g) : readGeometry u = .ok g :=
  readGeometry_ok_iff.mpr ⟨h.texW, h.texH, h.regX, h.regY, h.regW, h.regH, h.tgtW, h.tgtH⟩

/-- A ready entry of a known class comes to the region (R220). -/
theorem EntryReady.decodeEntry_eq {u : DecodeUnit} {g : Geometry} (h : EntryReady u g) {p : Config.Params} {fmt : Word64}
    (hk : classOf p fmt ≠ .unknown) : decodeEntry p fmt u = entryRegion u (classOf p fmt) := by
  obtain ⟨c, hc, htgt, hreg⟩ := h.present
  exact decodeEntry_region p fmt hc ((argumentsPresent_iff c).mpr ⟨htgt, hreg⟩) h.fmt hk

/-! ## O23: the target check -/

/-- A region that is not empty clips to a rectangle with its four bounds (R223, R224). -/
theorem clip_of_nonempty {g : Geometry} (hx : max g.regX 0 < min (g.regX + g.regW) g.texW)
    (hy : max g.regY 0 < min (g.regY + g.regH) g.texH) :
    ∃ r, clip g = some r ∧ (r.x1 : Int) = min (g.regX + g.regW) g.texW ∧ (r.y1 : Int) = min (g.regY + g.regH) g.texH := by
  simp only [clip]
  rw [if_neg (by omega)]
  exact ⟨_, rfl, by simp only; omega, by simp only; omega⟩

/-- The entry raises for a clipped region outside the target (R59). -/
theorem entryRegion_overrun {u : DecodeUnit} {g : Geometry} {r : Rect} (c : FormatClass) (hg : readGeometry u = .ok g)
    (hr : clip g = some r) (hout : g.tgtW < r.x1 ∨ g.tgtH < r.y1) :
    entryRegion u c = .error (.raise .targetOverrun) := by
  rw [entryRegion_eq c hg, hr]
  exact if_pos hout

/-- Settles O23: the entry reads the geometry, clips the region and raises at its target check. -/
theorem targetOverrunRaises : Obligations.TargetOverrunRaises := by
  intro i s g hi hk he hx hy hout
  obtain ⟨r, hr, hx1, hy1⟩ := clip_of_nonempty hx hy
  have hentry : decodeEntry s.params (encodeFmt i) s.unit = .error (.raise .targetOverrun) :=
    (he.decodeEntry_eq hk.classOf_ne_unknown).trans (entryRegion_overrun _ he.readGeometry_eq hr (by omega))
  rw [exec_decode hi, decodeCommand_of_raise (decodeProcedure_error hentry), State.raise_eq_raised]
  rfl

/-! ## O24: the payload checks of the block decoders -/

/-- `i` is the DECODE of the format word `fmt`, and its class runs the block walk over blocks of `blockBytes` bytes
(R228). -/
structure DecodesBlocks (p : Config.Params) (i : Instr) (fmt : Word64) (blockBytes : Nat) : Prop where
  command : ∀ s, exec i s = decodeCommand fmt s
  known : classOf p fmt ≠ .unknown
  family : ∃ tile, ∀ g r s, decodeFamily (classOf p fmt) g r s = decodeBlocks blockBytes tile g r s

theorem DecodesBlocks.dxt {p : Config.Params} {i : Instr} {fmt : Word64} {f : DxtFormat}
    (hi : ∀ s, exec i s = decodeCommand fmt s) (hc : classOf p fmt = .dxt f) : DecodesBlocks p i fmt f.blockBytes :=
  ⟨hi, by simp [hc], dxtTile f, fun g r s => by rw [hc]; rfl⟩

theorem DecodesBlocks.etc {p : Config.Params} {i : Instr} {fmt : Word64} {f : EtcFormat}
    (hi : ∀ s, exec i s = decodeCommand fmt s) (hc : classOf p fmt = .etc f) : DecodesBlocks p i fmt f.blockBytes :=
  ⟨hi, by simp [hc], etcTile f, fun g r s => by rw [hc]; rfl⟩

/-- The class of a known DXT code (R72, R221). -/
theorem classOf_dxt {p : Config.Params} {n : Nat} {f : DxtFormat} (hn : n < 2 ^ 32) (hk : n ∈ p.knownFormats)
    (hd : datapathOf n = some (.dxt f)) : classOf p (BitVec.ofNat 64 n) = .dxt f := by
  simp [classOf_named p hn, isKnown, hk, hd]

/-- The class of a known and routed ETC code (R221, R230). -/
theorem classOf_etc {p : Config.Params} {n : Nat} {f : EtcFormat} (hn : n < 2 ^ 32) (hk : n ∈ p.knownFormats)
    (hr : p.etcRouted = true) (hd : datapathOf n = some (.etc f)) : classOf p (BitVec.ofNat 64 n) = .etc f := by
  simp [classOf_named p hn, isKnown, hk, hr, hd]

/-- The DXT and the routed ETC formats are those whose DECODE walks blocks (R228, R230). -/
theorem blockFormats_decodesBlocks {q : Instr × Instr × Nat × Nat} (hq : q ∈ blockFormats) {p : Config.Params}
    (hk : q.2.2.2 ∈ p.knownFormats) (hr : Routed p q.2.2.2) :
    DecodesBlocks p q.1 (BitVec.ofNat 64 q.2.2.2) q.2.2.1 := by
  simp only [blockFormats, List.mem_cons, List.not_mem_nil, or_false] at hq
  rcases hq with rfl | rfl | rfl | rfl | rfl | rfl | rfl
  · exact .dxt (f := .dxt1) (fun _ => rfl) (classOf_dxt (by decide) hk rfl)
  · exact .dxt (f := .dxt3) (fun _ => rfl) (classOf_dxt (by decide) hk rfl)
  · exact .dxt (f := .dxt5) (fun _ => rfl) (classOf_dxt (by decide) hk rfl)
  · exact .etc (f := .etc1) (fun _ => rfl) (classOf_etc (by decide) hk (hr (by decide)) rfl)
  · exact .etc (f := .rgb) (fun _ => rfl) (classOf_etc (by decide) hk (hr (by decide)) rfl)
  · exact .etc (f := .rgba) (fun _ => rfl) (classOf_etc (by decide) hk (hr (by decide)) rfl)
  · exact .etc (f := .rgbA1) (fun _ => rfl) (classOf_etc (by decide) hk (hr (by decide)) rfl)

/-- On a ready region such a DECODE raises where its block walk does. -/
theorem DecodesBlocks.raises {i : Instr} {fmt : Word64} {blockBytes : Nat} {s : State} {g : Geometry} {r : Rect}
    {e : ErrorKind} (h : DecodesBlocks s.params i fmt blockBytes) (hr : RegionReady s.unit g r)
    (he : ∀ tile, decodeBlocks blockBytes tile g r (s.withUnit (s.unit.withWrites [])) = .error (.raise e)) :
    exec i s = .next (s.raised true e.status e.info) := by
  obtain ⟨tile, hfam⟩ := h.family
  rw [h.command, ← State.raise_eq_raised]
  refine decodeCommand_of_raise ?_
  rw [decodeProcedure_run (decodeEntry_ready s.params fmt hr h.known), hfam]
  exact he tile

/-- Settles O24: on a ready region the block decoder fails its first check without `PAYLOAD_LEN`, and its second for a
payload that ends too early. -/
theorem blockPayloadChecks : Obligations.BlockPayloadChecks := by
  intro q hq s g r hr hk hroute
  have hblocks := blockFormats_decodesBlocks hq hk hroute
  have hcases := fun tile =>
    decodeBlocks_eq (s := s.withUnit (s.unit.withWrites [])) (hr.withWrites []) rfl q.2.2.1 tile
  refine ⟨fun hnone => hblocks.raises (e := .unsetConfig (.config .payloadLen)) hr fun tile => ?_,
    fun len hsome hlen => hblocks.raises (e := .payloadUnderrun) hr fun tile => ?_⟩
  · rcases hcases tile with ⟨-, he⟩ | ⟨len, hsome, -⟩
    · exact he
    · exact absurd (hnone.symm.trans hsome) (by simp)
  · rcases hcases tile with ⟨hnone, -⟩ | ⟨len', hsome', ⟨-, he⟩ | ⟨hle, -⟩⟩
    · exact absurd (hnone.symm.trans hsome) (by simp)
    · exact he
    · obtain rfl : len' = len := Option.some.inj (hsome'.symm.trans hsome)
      exact absurd hlen (Nat.not_lt.mpr hle)

end Sys2Proof.Machine
end

section
/-! PROOF. O13: no command and no step reaches a fault of the model. What a DECODE and a BLOCK can do is said once in the
laws of the commands, and none of those ends is a fault. -/

namespace Sys2Proof.Machine

/-- A DECODE reads inside the payload and writes inside the target (R58, R59). -/
theorem decodeProcedure_ne_fault (fmt : Word64) (s : State) (f : Fault) : decodeProcedure fmt s ≠ .error (.fault f) := by
  rcases decodeProcedure_cases fmt s with ⟨e, h, -⟩ | h | ⟨k, -, h⟩ | ⟨c, ws, k, g, r, px, -, h, -⟩ |
    ⟨id, c, ws, g, r, px, e, d, -, h, -⟩ | h <;> simp [h]

/-- A BLOCK touches neither memory (R234). -/
theorem blockProcedure_ne_fault (fmt : Word64) (s : State) (f : Fault) : blockProcedure fmt s ≠ .error (.fault f) := by
  rcases blockProcedure_cases fmt s with ⟨-, h⟩ | ⟨-, -, h⟩ | ⟨c, -, -, h | ⟨bytes, -, h⟩⟩ <;> simp [h]

theorem startDecode_ne_fault (fmt : Word64) (s : State) (f : Fault) : startDecode fmt s ≠ .fault f :=
  fun h => decodeProcedure_ne_fault fmt s f (finish_fault_iff.mp h)

/-- The writes and the insertion that the procedure leaves to be made cannot fail (R62). -/
theorem decodeCommand_ne_fault (fmt : Word64) (s : State) (f : Fault) : decodeCommand fmt s ≠ .fault f := by
  rw [decodeCommand_eq_startDecode]
  split
  · simp
  · exact startDecode_ne_fault fmt s f

theorem exec_ne_fault (i : Instr) (s : State) (f : Fault) : exec i s ≠ .fault f := by
  rcases exec_cases i with ⟨fmt, h⟩ | ⟨fmt, h⟩ | h | h <;> rw [h]
  · exact decodeCommand_ne_fault fmt s f
  · exact fun h => blockProcedure_ne_fault fmt s f (finish_fault_iff.mp h)
  · simp
  · simp

/-- An access that runs no command answers a next state or is refused; the others fault only where their command does. -/
theorem admittedAccess_ne_fault (s : State) (e : HostEvent) (f : Fault) : admittedAccess s e ≠ .fault f := by
  cases e with
  | cmd w => exact exec_ne_fault _ _ f
  | start w =>
    rw [admittedAccess_start]
    split
    · exact startDecode_ne_fault _ _ f
    · exact exec_ne_fault _ _ f
  | loadPayload bytes => rw [admittedAccess_loadPayload]; split <;> simp
  | loadContainer buffer =>
    rcases admittedAccess_loadContainer s buffer with ⟨c, -, h⟩ | ⟨e, -, h⟩ <;> rw [h]
    · split <;> simp
    · simp
  | read q => rcases admittedAccess_read s q with h | ⟨i, -, -, h⟩ <;> simp [h]
  | select k =>
    rw [admittedAccess_select]
    rcases selectUnit_cases s k with ⟨-, h⟩ | ⟨-, u, -, h⟩ | ⟨-, -, h⟩ <;> simp [h]
  | reset => rw [admittedAccess_reset]; split <;> simp
  | _ => simp [admittedAccess]

theorem hostAccess_ne_fault (s : State) (e : HostEvent) (f : Fault) : hostAccess s e ≠ .fault f := by
  unfold hostAccess
  split
  · simp
  · exact admittedAccess_ne_fault s e f

/-- Settles O13, for a command by what it can do and for a step by the access it takes. -/
theorem commandsStayInBounds : Obligations.CommandsStayInBounds := by
  refine ⟨exec_ne_fault, fun s f => ?_⟩
  cases hh : s.host with
  | nil => simp [turn_idle hh]
  | cons e rest =>
    rw [turn_cons hh]
    exact hostAccess_ne_fault _ e f

end Sys2Proof.Machine
end

section
/-! PROOF. O54: a command in progress. A step of it makes only what the end of the command makes all the same, so the end
does not depend on the steps before it; and no step but the end touches the report. -/

namespace Sys2Proof.Machine

/-! ## The DECODE that a `CMD` write of 0 starts -/

/-- The decoder takes a `CMD` write of 0 for a DECODE (R70). -/
theorem decodeOfFormat_isDecode (f : Word64) : isDecodeCommand (decodeOfFormat f) = true := by
  rw [isDecodeCommand, decodeOfFormat_wellFormed]
  unfold decodeOfFormat
  split <;> try rfl
  split <;> rfl

/-- A format word with an empty upper half is its lower half with zeros above (R24). -/
theorem zero_append_fmtLo {f : Word64} (h : fmtHi f = 0) : (0 : Word32) ++ fmtLo f = f := by
  refine BitVec.eq_of_toNat_eq ?_
  rw [BitVec.toNat_append, fmtLo_toNat_of_fmtHi h]
  simp

/-- The decoder keeps the format of a DECODE (R72, R73). -/
theorem encodeFmt_decodeOfFormat (f : Word64) : encodeFmt (decodeOfFormat f) = f := by
  unfold decodeOfFormat
  split
  case h_28 =>
    split_ifs with h
    · exact zero_append_fmtLo h
    · rfl
  all_goals next h => exact BitVec.eq_of_toNat_eq h.symm

/-- The halves of a dispatch word are those it is made of (R71). -/
theorem decodeWord_dispatchWord (f : Word64) (w : Word32) : decodeWord (dispatchWord f w) = decodeCommandWord f w := by
  have hfmt : (dispatchWord f w).extractLsb' 32 64 = f := BitVec.extractLsb'_append_eq_left
  have hcmd : (dispatchWord f w).extractLsb' 0 32 = w := BitVec.extractLsb'_append_eq_right
  rw [decodeWord, hfmt, hcmd]

/-- A `CMD` write of 0 runs the DECODE of the format that `FMT` holds (R36, R71). -/
theorem admittedAccess_cmd_zero (s : State) :
    admittedAccess s (.cmd 0) = decodeCommand (dispatchFmt s.unit) (issue s 0) := by
  rw [admittedAccess_cmd, decodeWord_dispatchWord, decodeCommandWord, if_pos rfl,
    exec_decode (decodeOfFormat_isDecode _), encodeFmt_decodeOfFormat]

/-! ## The steps of a command in progress -/

/-- `s` after its unit's command in progress has ended with the completion `c`: its insertion and its pixel writes are made
(R62, R63). -/
def State.commandEnded (s : State) (c : Completion) : State :=
  { s with
    cache := s.insertNow.cache
    targets := writeTargets s.targets s.unit.binding s.unit.writes
    unit := s.unit.complete (some true) c }

theorem proceed_finish {s : State} {c : Completion} (h : s.unit.completion = some c) :
    s.proceed .finish = s.commandEnded c := by
  have hend : s.proceed .finish = s.insertNow.writeRest c := by simp [State.proceed, h]
  rw [hend, State.commandEnded]
  rcases insertNow_cases s with ⟨-, hi⟩ | ⟨e, -, hi⟩ <;> rw [hi] <;> rfl

/-- Each word that `ws` names, it gives one value. -/
def OneValued (ws : List (Nat × Word32)) : Prop := ∀ w ∈ ws, ∀ w' ∈ ws, w.1 = w'.1 → w.2 = w'.2

/-- A write of a list may be made before the others (R62). -/
theorem writeTargets_eraseIdx {ts : List (Nat × List (Nat × Word32))} (ht : targetsWf ts = true) (b : Nat)
    {ws : List (Nat × Word32)} (hv : OneValued ws) {n : Nat} {w : Nat × Word32} (hw : ws[n]? = some w) :
    writeTargets (writeTargetWord ts b w.1 w.2) b (ws.eraseIdx n) = writeTargets ts b ws := by
  obtain ⟨hn, rfl⟩ := List.getElem?_eq_some_iff.mp hw
  have hperm : (ws[n] :: ws.eraseIdx n).Perm ws := List.getElem_cons_eraseIdx_perm hn
  exact (writeTargets_congr ht (fun v => hperm.mem_iff.symm) hv).symm

/-- What the writes of a command in progress need in order to be made in any order: target memories in canonical form, and
one value for each word. -/
structure State.AnyOrder (s : State) : Prop where
  targets : targetsWf s.targets = true
  writes : OneValued s.unit.writes

theorem State.AnyOrder.insertNow {s : State} (h : s.AnyOrder) : s.insertNow.AnyOrder :=
  ⟨by simpa using h.targets, by simpa using h.writes⟩

theorem State.AnyOrder.writeNow {s : State} (h : s.AnyOrder) (n : Nat) : (s.writeNow n).AnyOrder := by
  rcases writeNow_cases s n with ⟨-, he⟩ | ⟨w, -, he⟩ <;> rw [he]
  · exact h
  · exact ⟨targetsWf_writeTargetWord h.targets _ _ _, fun v hv v' hv' =>
      h.writes v (List.mem_of_mem_eraseIdx hv) v' (List.mem_of_mem_eraseIdx hv')⟩

theorem State.AnyOrder.proceed {s : State} (h : s.AnyOrder) (p : Progress) : (s.proceed p).AnyOrder := by
  rcases proceed_cases s p with ⟨-, he⟩ | ⟨c, -, ⟨-, he⟩ | ⟨n, -, he⟩ | ⟨-, he⟩⟩ <;> rw [he]
  · exact h
  · exact h.insertNow
  · exact h.insertNow.writeNow n
  · exact ⟨targetsWf_writeTargets _ h.insertNow.targets _, by simp [writeRest_eq, OneValued]⟩

/-- A pixel write changes the unit in the writes that it still has to make, and in nothing else (R57). -/
theorem writeNow_unit (s : State) (n : Nat) : ∃ ws, (s.writeNow n).unit = s.unit.withWrites ws := by
  rcases writeNow_cases s n with ⟨-, he⟩ | ⟨w, -, he⟩ <;> rw [he]
  · exact ⟨s.unit.writes, rfl⟩
  · exact ⟨_, rfl⟩

/-- An insertion made early is the one the end of the command makes (R265). -/
theorem commandEnded_insertNow (s : State) (c : Completion) : s.insertNow.commandEnded c = s.commandEnded c := by
  rcases insertNow_cases s with ⟨-, hi⟩ | ⟨e, -, hi⟩
  · rw [hi]
  · rw [State.commandEnded, State.commandEnded, hi]
    rfl

/-- A pixel write made early is one of those the end of the command makes (R62). -/
theorem commandEnded_writeNow {s : State} (h : s.AnyOrder) (n : Nat) (c : Completion) :
    (s.writeNow n).commandEnded c = s.commandEnded c := by
  rcases writeNow_cases s n with ⟨-, he⟩ | ⟨w, hw, he⟩ <;> rw [he]
  have htargets := writeTargets_eraseIdx h.targets s.unit.binding h.writes hw
  simp only [State.commandEnded, insertNow_cache, State.withUnit_unit, State.withUnit_targets, State.withUnit_cache,
    State.withTargets_targets, State.withTargets_cache, DecodeUnit.withWrites_insertion, DecodeUnit.withWrites_binding,
    DecodeUnit.withWrites_writes, htargets]
  rfl

/-- A step of a command in progress leaves its end as it is (R62). -/
theorem proceed_proceed_finish {s : State} (h : s.AnyOrder) (p : Progress) :
    (s.proceed p).proceed .finish = s.proceed .finish := by
  rcases proceed_cases s p with ⟨-, he⟩ | ⟨c, hc, ⟨-, he⟩ | ⟨n, -, he⟩ | ⟨rfl, he⟩⟩
  · rw [he]
  · rw [he, proceed_finish hc, proceed_finish (by simpa using hc), commandEnded_insertNow]
  · obtain ⟨ws, hws⟩ := writeNow_unit s.insertNow n
    have hc' : (s.insertNow.writeNow n).unit.completion = some c := by simpa [hws] using hc
    rw [he, proceed_finish hc, proceed_finish hc', commandEnded_writeNow h.insertNow, commandEnded_insertNow]
  · rw [proceed_finish hc]
    exact proceed_idle rfl .finish

/-- Whatever a command in progress has done, it ends in the same state (R62, R63). -/
theorem foldl_proceed_finish (ps : List Progress) {s : State} (h : s.AnyOrder) :
    (ps.foldl State.proceed s).proceed .finish = s.proceed .finish := by
  induction ps generalizing s with
  | nil => rfl
  | cons p rest ih => exact (ih (h.proceed p)).trans (proceed_proceed_finish h p)

/-! ## The report of a command in progress -/

/-- What a command reports (R37 to R40): `RESULT`, `STATUS`, `FAULT_INFO`, `FAULT_SEEN` and `BLK_OUT`. -/
def DecodeUnit.report (u : DecodeUnit) : Bool × Byte × Byte × Bool × Vector (Option Pixel) 32 :=
  (u.result, u.status, u.faultInfo, u.faultSeen, u.blkOut)

/-- A step that leaves the command in progress writes no report (R63). -/
theorem proceed_report {s : State} {p : Progress} (h : (s.proceed p).unit.cmd ≠ none) :
    s.unit.cmd ≠ none ∧ (s.proceed p).unit.report = s.unit.report := by
  rcases proceed_cases s p with ⟨-, he⟩ | ⟨c, hc, ⟨-, he⟩ | ⟨n, -, he⟩ | ⟨-, he⟩⟩ <;> rw [he] at h ⊢
  · exact ⟨h, rfl⟩
  · rw [insertNow_unit] at h ⊢
    exact ⟨h, rfl⟩
  · obtain ⟨ws, hws⟩ := writeNow_unit s.insertNow n
    rw [hws, insertNow_unit] at h ⊢
    exact ⟨h, rfl⟩
  · exact absurd rfl h

/-- While a command is in progress it has written no report, whatever else it has done (R63). -/
theorem foldl_proceed_report (ps : List Progress) {s : State} (h : (ps.foldl State.proceed s).unit.cmd ≠ none) :
    s.unit.cmd ≠ none ∧ (ps.foldl State.proceed s).unit.report = s.unit.report := by
  induction ps generalizing s with
  | nil => exact ⟨h, rfl⟩
  | cons p rest ih =>
    obtain ⟨hc, hr⟩ := ih h
    obtain ⟨hc', hr'⟩ := proceed_report hc
    exact ⟨hc', hr.trans hr'⟩

/-! ## The start of a command -/

/-- A DECODE just started: no word is written yet, its writes may come in any order, it has written no report unless it has
ended, and its end is that of the DECODE run whole (R62, R63). -/
structure Started (f : Word64) (s u : State) : Prop where
  targets : u.targets = s.targets
  writes : OneValued u.unit.writes
  report : u.unit.cmd ≠ none → u.unit.report = s.unit.report
  whole : decodeCommand f s = .next (u.proceed .finish)

theorem startDecode_started {f : Word64} {s u : State} (h : startDecode f s = .next u) : Started f s u := by
  rcases decodeProcedure_cases f s with ⟨e, he, -⟩ | he | ⟨k, -, he⟩ | ⟨c, ws, k, g, r, px, -, he, hw⟩ |
    ⟨id, c, ws, g, r, px, e, d, -, he, hw, -⟩ | he <;> rw [startDecode, he] at h <;> cases h
  · exact ⟨rfl, by simp [OneValued, State.raise], fun hc => absurd rfl hc, decodeCommand_of_raise he⟩
  · exact ⟨rfl, by simp [OneValued, State.complete], fun hc => absurd rfl hc, decodeCommand_of_ok he⟩
  · exact ⟨rfl, by simp [OneValued, State.complete], fun hc => absurd rfl hc, decodeCommand_of_ok he⟩
  · exact ⟨rfl, hw.single, fun _ => rfl, decodeCommand_of_ok he⟩
  · exact ⟨rfl, hw.single, fun _ => rfl, decodeCommand_of_ok he⟩

/-- A DECODE that runs whole may be left in progress too (R62). -/
theorem startDecode_of_decodeCommand {f : Word64} {s t : State} (h : decodeCommand f s = .next t) :
    ∃ u, startDecode f s = .next u := by
  rw [decodeCommand_eq_startDecode] at h
  cases he : decodeProcedure f s with
  | ok u => exact ⟨u, by rw [startDecode, he]; rfl⟩
  | error e => exact ⟨t, by simpa only [he] using h⟩

theorem hostAccess_start_zero {s : State} (h : s.unit.cmd = none) :
    hostAccess s (.start 0) = startDecode (dispatchFmt s.unit) (issue s 0) :=
  (hostAccess_idle h _).trans ((admittedAccess_start s 0).trans (if_pos rfl))

theorem hostAccess_cmd_zero {s : State} (h : s.unit.cmd = none) :
    hostAccess s (.cmd 0) = decodeCommand (dispatchFmt s.unit) (issue s 0) :=
  (hostAccess_idle h _).trans (admittedAccess_cmd_zero s)

/-- A word other than that of DECODE runs whole either way (log 30). -/
theorem hostAccess_start_of_ne {s : State} (h : s.unit.cmd = none) {w : Word32} (hw : w ≠ 0) :
    hostAccess s (.start w) = hostAccess s (.cmd w) := by
  rw [hostAccess_idle h, hostAccess_idle h, admittedAccess_start, if_neg hw, admittedAccess_cmd]

/-- Settles O54: the end of a started DECODE through its steps, its report until then, and the ten refused accesses. -/
theorem commandInProgressEndsAsWhole : Obligations.CommandInProgressEndsAsWhole := by
  refine ⟨fun s p => hostAccess_free rfl s, ?ends, ?starts, ?refused⟩
  case ends =>
    intro s u t ps hidle hwf hu ht
    rw [hostAccess_start_zero hidle] at hu
    rw [hostAccess_cmd_zero hidle] at ht
    have hs := startDecode_started hu
    have horder : u.AnyOrder := ⟨hs.targets ▸ hwf, hs.writes⟩
    rw [foldl_proceed_finish ps horder]
    exact Host.Outcome.next.inj (hs.whole.symm.trans ht)
  case starts =>
    intro s hidle
    rw [hostAccess_start_zero hidle, hostAccess_cmd_zero hidle]
    refine ⟨⟨fun ⟨t, ht⟩ => startDecode_of_decodeCommand ht, fun ⟨u, hu⟩ => ⟨_, (startDecode_started hu).whole⟩⟩,
      fun w hw => hostAccess_start_of_ne hidle hw, fun u hu hcmd => ?_⟩
    have hs := startDecode_started hu
    refine ⟨hs.targets, fun ps => ?_⟩
    intro v hv
    have hreport : v.unit.report = s.unit.report := (foldl_proceed_report ps hv).2.trans (hs.report hcmd)
    simpa [DecodeUnit.report] using hreport
  case refused =>
    intro s hbusy
    exact ⟨fun _ => hostAccess_busy hbusy rfl, fun _ _ => hostAccess_busy hbusy rfl, fun _ _ => hostAccess_busy hbusy rfl,
      fun _ => hostAccess_busy hbusy rfl, fun _ _ => hostAccess_busy hbusy rfl, fun _ => hostAccess_busy hbusy rfl,
      fun _ => hostAccess_busy hbusy rfl, fun _ => hostAccess_busy hbusy rfl, fun _ => hostAccess_busy hbusy rfl,
      fun _ => hostAccess_busy hbusy rfl⟩

end Sys2Proof.Machine
end

section
/-! PROOF. O55: two commands in progress on one target memory. To finish the other unit's command is to make its writes and
to leave the host's own unit as it was, so each of the two orders is one list of writes after the other. -/

namespace Sys2Proof.Machine

/-! ## Runs of accesses -/

theorem runAccesses_cons {s t : State} {e : HostEvent} (h : hostAccess s e = .next t) (es : List HostEvent) :
    runAccesses s (e :: es) = runAccesses t es := by simp [runAccesses, h]

/-- A step of a command in progress is always admitted (R62). -/
theorem runAccesses_proceed (s : State) (p : Progress) (es : List HostEvent) :
    runAccesses s (.proceed p :: es) = runAccesses (s.proceed p) es := runAccesses_cons (hostAccess_free rfl s) es

/-- A run of two lists of accesses is a run of the one and then of the other. -/
theorem runAccesses_append {s t : State} {es : List HostEvent} (h : runAccesses s es = some t) (es' : List HostEvent) :
    runAccesses s (es ++ es') = runAccesses t es' := by
  induction es generalizing s with
  | nil => cases h; rfl
  | cons e rest ih =>
    cases he : hostAccess s e with
    | next u =>
      rw [runAccesses_cons he] at h
      rw [List.cons_append, runAccesses_cons he]
      exact ih h
    | fault f => simp [runAccesses, he] at h
    | refused q => simp [runAccesses, he] at h

/-! ## The other unit's command -/

/-- The turn to another unit (R271). -/
theorem hostAccess_select {s : State} {k : Nat} {p : DecodeUnit} (hk : k ≠ s.unitId) (hp : findPeer s.peers k = some p) :
    hostAccess s (.select k) =
      .next { s with unitId := k, unit := p, peers := swapPeer s.peers k s.unitId s.unit } := by
  simp [hostAccess_free (e := .select k) rfl, admittedAccess_select, selectUnit, hk, hp]

/-- The host turns to a unit whose command is in progress, finishes the command and turns back: the unit's writes are made,
and the host's own unit is as it was. -/
theorem runAccesses_finish_peer {s : State} {k : Nat} {p : DecodeUnit} (hn : s.unitId ∉ s.peers.map Prod.fst)
    (hk : k ≠ s.unitId) (hp : findPeer s.peers k = some p) (hc : p.completion.isSome = true) :
    ∃ t, runAccesses s [.select k, .proceed .finish, .select s.unitId] = some t ∧ t.unit = s.unit ∧
      t.targets = writeTargets s.targets p.binding p.writes := by
  obtain ⟨c, hc⟩ := Option.isSome_iff_exists.mp hc
  rw [runAccesses_cons (hostAccess_select hk hp), runAccesses_proceed]
  have hback : findPeer (swapPeer s.peers k s.unitId s.unit) s.unitId = some s.unit := by
    simp [findPeer_swapPeer hn hp hk.symm]
  have hend := proceed_finish (s := { s with unitId := k, unit := p, peers := swapPeer s.peers k s.unitId s.unit }) hc
  rw [hend, runAccesses_cons (hostAccess_select hk.symm hback)]
  exact ⟨_, rfl, rfl, rfl⟩

/-! ## Two lists of writes to one target memory -/

/-- Writes leave a word with a value that depends on the word alone. -/
theorem read_writeAll_congr (ws : List (Nat × Word32)) {t t' : List (Nat × Word32)} {a : Nat}
    (h : Memory.read t a = Memory.read t' a) : Memory.read (writeAll t ws) a = Memory.read (writeAll t' ws) a := by
  induction ws generalizing t t' with
  | nil => exact h
  | cons w rest ih =>
    refine ih ?_
    rw [Memory.read_write, Memory.read_write, h]

/-- Writes of the one list to words that the other does not name go as well before as after the other's. -/
theorem read_writeAll_swap {ws vs : List (Nat × Word32)} (t : List (Nat × Word32)) {a : Nat} (ha : ∀ v ∈ vs, v.1 ≠ a) :
    Memory.read (writeAll (writeAll t ws) vs) a = Memory.read (writeAll (writeAll t vs) ws) a := by
  rw [read_writeAll_other vs _ a ha]
  exact (read_writeAll_congr ws (read_writeAll_other vs t a ha)).symm

/-- Two lists of writes that share no word may be made in either order (R64). -/
theorem writeTargets_comm {ts : List (Nat × List (Nat × Word32))} (ht : targetsWf ts = true) (b : Nat)
    {ws vs : List (Nat × Word32)} (hd : ∀ w ∈ ws, ∀ v ∈ vs, w.1 ≠ v.1) :
    writeTargets (writeTargets ts b ws) b vs = writeTargets (writeTargets ts b vs) b ws := by
  refine targets_ext (targetsWf_writeTargets _ (targetsWf_writeTargets _ ht b) b)
    (targetsWf_writeTargets _ (targetsWf_writeTargets _ ht b) b) fun c => ?_
  simp only [targetOf_writeTargets]
  by_cases hc : c = b
  · simp only [hc, if_true]
    refine Memory.ext_read _ _ (wf_writeAll _ _ (wf_writeAll _ _ (wf_targetOf ht b)))
      (wf_writeAll _ _ (wf_writeAll _ _ (wf_targetOf ht b))) fun a => ?_
    by_cases ha : ∃ w ∈ ws, w.1 = a
    · obtain ⟨w, hw, rfl⟩ := ha
      exact read_writeAll_swap _ fun v hv => (hd w hw v hv).symm
    · exact (read_writeAll_swap _ fun w hw hwa => ha ⟨w, hw, hwa⟩).symm
  · simp only [hc, if_false]

/-- The last list of writes decides a word to which it gives one value (R64, R286). -/
theorem read_targetOf_writeTargets {ts : List (Nat × List (Nat × Word32))} {b a : Nat} {v : Word32}
    {ws : List (Nat × Word32)} (hm : (a, v) ∈ ws) (hv : ∀ w ∈ ws, w.1 = a → w.2 = v) :
    Memory.read (targetOf (writeTargets ts b ws) b) a = some v := by
  rw [targetOf_writeTargets, if_pos rfl]
  exact read_writeAll_mem ws _ a v hm hv

/-! ## The two orders -/

/-- The host's unit is finished before the other one. -/
theorem runAccesses_finish_then_peer {s : State} {k : Nat} {p : DecodeUnit} (hn : s.unitId ∉ s.peers.map Prod.fst)
    (hk : k ≠ s.unitId) (hp : findPeer s.peers k = some p) (hs : s.unit.completion.isSome = true)
    (hc : p.completion.isSome = true) :
    ∃ t, runAccesses s [.proceed .finish, .select k, .proceed .finish, .select s.unitId] = some t ∧
      t.unit.binding = s.unit.binding ∧
      t.targets = writeTargets (writeTargets s.targets s.unit.binding s.unit.writes) p.binding p.writes := by
  obtain ⟨c, hs⟩ := Option.isSome_iff_exists.mp hs
  rw [runAccesses_proceed, proceed_finish hs]
  obtain ⟨t, ht, hunit, htargets⟩ := runAccesses_finish_peer (s := s.commandEnded c) hn hk hp hc
  exact ⟨t, ht, by rw [hunit]; rfl, htargets⟩

/-- The host's unit is finished after the other one. -/
theorem runAccesses_peer_then_finish {s : State} {k : Nat} {p : DecodeUnit} (hn : s.unitId ∉ s.peers.map Prod.fst)
    (hk : k ≠ s.unitId) (hp : findPeer s.peers k = some p) (hs : s.unit.completion.isSome = true)
    (hc : p.completion.isSome = true) :
    ∃ t, runAccesses s [.select k, .proceed .finish, .select s.unitId, .proceed .finish] = some t ∧
      t.unit.binding = s.unit.binding ∧
      t.targets = writeTargets (writeTargets s.targets p.binding p.writes) s.unit.binding s.unit.writes := by
  obtain ⟨u, hu, hunit, htargets⟩ := runAccesses_finish_peer hn hk hp hc
  obtain ⟨c, hs⟩ := Option.isSome_iff_exists.mp hs
  have hend := proceed_finish (s := u) (hunit ▸ hs)
  refine ⟨u.proceed .finish, runAccesses_append hu [.proceed .finish], ?_, ?_⟩ <;> rw [hend]
  · simp only [State.commandEnded, hunit, DecodeUnit.complete_binding]
  · simp only [State.commandEnded, hunit, htargets]

/-- Settles O55: the later of the two decides a word that both write, and where they share none the two orders are one. -/
theorem sharedTargetTakesEitherValue : Obligations.SharedTargetTakesEitherValue := by
  intro s k p hn hp hk hb hs hc
  have hself : s.unitId ∉ s.peers.map Prod.fst := (List.nodup_cons.mp hn).1
  have hpeer : findPeer s.peers k = some p := (if_neg hk).symm.trans hp
  obtain ⟨t, ht, hbind, htargets⟩ := runAccesses_finish_then_peer hself hk hpeer hs hc
  obtain ⟨t', ht', hbind', htargets'⟩ := runAccesses_peer_then_finish hself hk hpeer hs hc
  rw [hb] at htargets htargets'
  refine ⟨t, t', ht, ht', fun a v hm hv => ?_, fun a v hm hv => ?_, fun hwf hd => ?_⟩
  · rw [State.target, hbind, htargets]
    exact read_targetOf_writeTargets hm hv
  · rw [State.target, hbind', htargets']
    exact read_targetOf_writeTargets hm hv
  · rw [htargets, htargets']
    exact writeTargets_comm hwf _ hd

end Sys2Proof.Machine
end

section
/-! PROOF. O2, O3, O4 and O1: the decoder and the encoder are inverse to each other. One direction says what the decoder
answers on each encoding; the other, that a DECODE and a BLOCK keep their format and every command its `CMD` word. Which
row applies to a dispatch word then follows from which row applies to an encoding. -/

namespace Sys2Proof.Machine

/-! ## The last row of each of the two format tables -/

/-- A format word past the named codes is an unknown code or a custom format (R72, R73). -/
theorem decodeOfFormat_of_last_lt {f : Word64} (h : lastNamedFormat < f.toNat) :
    decodeOfFormat f = if fmtHi f = 0 then .decodeUnsupported (fmtLo f) else .decodeFallbackCustom f := by
  rw [lastNamedFormat] at h
  unfold decodeOfFormat
  split
  case h_28 => rfl
  all_goals omega

/-- A format word with no block datapath is that of a `BLOCK.ILLEGAL` (R234). -/
theorem blockOfFormat_of_not_mem {f : Word64} (h : f.toNat ∉ blockFormatCodes) : blockOfFormat f = .blockIllegal f := by
  unfold blockOfFormat
  split
  case h_12 => rfl
  all_goals next hcode => exact absurd (by rw [hcode]; decide) h

/-- The halves of a format word that is made of two (R24). -/
theorem fmtHi_append (hi lo : Word32) : fmtHi (hi ++ lo) = hi := BitVec.extractLsb'_append_eq_left

theorem fmtLo_append (hi lo : Word32) : fmtLo (hi ++ lo) = lo := BitVec.extractLsb'_append_eq_right

/-- A custom format has a code in its upper half (R73). -/
theorem fmtHi_ne_zero {f : Word64} (h : 2 ^ 32 ≤ f.toNat) : fmtHi f ≠ 0 := by
  intro hhi
  have hlt := (fmtLo f).isLt
  rw [fmtLo_toNat_of_fmtHi hhi] at hlt
  omega

/-! ## O2: the decoder on the encodings -/

/-- The halves of the encoding of a well-formed instruction stand for the instruction. The rows that fix the whole dispatch
word are read off the tables; the others depend on the condition on their operand. -/
theorem decodeCommandWord_encode {i : Instr} (h : i.wellFormed = true) :
    decodeCommandWord (encodeFmt i) (encodeCmd i) = i := by
  cases i with
  | decodeFallbackCustom fmt =>
    have hcustom : 2 ^ 32 ≤ fmt.toNat := of_decide_eq_true h
    have hlast : lastNamedFormat < fmt.toNat := by rw [lastNamedFormat]; omega
    exact (decodeOfFormat_of_last_lt hlast).trans (if_neg (fmtHi_ne_zero hcustom))
  | decodeUnsupported code =>
    have hlast : lastNamedFormat < ((0 : Word32) ++ code).toNat := by
      rw [BitVec.toNat_append]
      simpa [Instr.wellFormed] using h
    refine (decodeOfFormat_of_last_lt hlast).trans ?_
    rw [fmtHi_append, fmtLo_append, if_pos rfl]
  | blockIllegal fmt =>
    have hcode : fmt.toNat ∉ blockFormatCodes := by simpa [Instr.wellFormed] using h
    exact blockOfFormat_of_not_mem hcode
  | illegalCmd cmd =>
    have hcmd : 2 < cmd.toNat := of_decide_eq_true h
    have h0 : cmd ≠ 0 := by bv_omega
    have h1 : cmd ≠ 1 := by bv_omega
    have h2 : cmd ≠ 2 := by bv_omega
    exact (if_neg h0).trans ((if_neg h1).trans (if_neg h2))
  | _ => rfl

/-- Settles O2: the decoder splits a dispatch word into the halves that the encoder makes it of. -/
theorem encodeDecodeRoundTrip : Obligations.EncodeDecodeRoundTrip := fun i h =>
  (decodeWord_dispatchWord (encodeFmt i) (encodeCmd i)).trans (decodeCommandWord_encode h)

/-! ## O4: what the decoder keeps -/

theorem encodeCmd_decodeOfFormat (f : Word64) : encodeCmd (decodeOfFormat f) = 0 := by
  have h := decodeOfFormat_isDecode f
  simp only [isDecodeCommand, Bool.and_eq_true, beq_iff_eq] at h
  exact h.2

theorem encodeCmd_blockOfFormat (f : Word64) : encodeCmd (blockOfFormat f) = 1 := by
  unfold blockOfFormat
  split <;> rfl

/-- The decoder keeps the format of a BLOCK (R72, R234). -/
theorem encodeFmt_blockOfFormat (f : Word64) : encodeFmt (blockOfFormat f) = f := by
  unfold blockOfFormat
  split
  case h_12 => rfl
  all_goals next hcode => exact BitVec.eq_of_toNat_eq hcode.symm

/-- The decoder keeps the `CMD` word of every command (R70). -/
theorem encodeCmd_decodeCommandWord (f : Word64) (w : Word32) : encodeCmd (decodeCommandWord f w) = w := by
  unfold decodeCommandWord
  split_ifs with h0 h1 h2
  · rw [encodeCmd_decodeOfFormat, h0]
  · rw [encodeCmd_blockOfFormat, h1]
  · exact h2.symm
  · rfl

/-- The decoder keeps the format of a DECODE and of a BLOCK (R71). -/
theorem encodeFmt_decodeCommandWord (f : Word64) {w : Word32} (h : w = 0 ∨ w = 1) :
    encodeFmt (decodeCommandWord f w) = f := by
  rcases h with rfl | rfl
  · exact encodeFmt_decodeOfFormat f
  · exact encodeFmt_blockOfFormat f

/-- The dispatch word of a DECODE or a BLOCK is the encoding of the instruction it stands for (R71). -/
theorem encode_decodeCommandWord (f : Word64) {w : Word32} (h : w = 0 ∨ w = 1) :
    encode (decodeCommandWord f w) = dispatchWord f w := by
  rw [encode, encodeFmt_decodeCommandWord f h, encodeCmd_decodeCommandWord]

/-- Settles O4. -/
theorem decodeDropsNoBit : Obligations.DecodeDropsNoBit := by
  intro f w
  have hdecode : decodeWord (f ++ w) = decodeCommandWord f w := decodeWord_dispatchWord f w
  rw [hdecode]
  exact ⟨encode_decodeCommandWord f, encodeCmd_decodeCommandWord f w⟩

/-! ## O3: the row of a dispatch word -/

/-- A dispatch word is made of its halves (R71). -/
theorem dispatchWord_extract (cw : DispatchWord) :
    dispatchWord (cw.extractLsb' 32 64) (cw.extractLsb' 0 32) = cw :=
  (BitVec.extractLsb'_append_extractLsb'_eq_extractLsb' rfl).trans BitVec.extractLsb'_eq_self

/-- Every encoding matches its row (R71): a row with an operand by the law of its constructor, the others by
their constants. -/
theorem encode_and_rowMask (i : Instr) : encode i &&& rowMask i = rowMatch i := by
  cases i with
  | decodeFallbackCustom fmt => exact Laws.RowOfEncoding.decodeFallbackCustom fmt
  | decodeUnsupported code => exact Laws.RowOfEncoding.decodeUnsupported code
  | blockIllegal fmt => exact Laws.RowOfEncoding.blockIllegal fmt
  | illegalCmd cmd => exact Laws.RowOfEncoding.illegalCmd cmd
  | _ => rfl

/-- The row of FLUSH looks at the `CMD` half only (R99). -/
theorem dispatchWord_and_rowMask_flush (f : Word64) : dispatchWord f 2 &&& rowMask .flush = rowMatch .flush :=
  Laws.dispatchWord_and f 0 0 2 0xffffffff 2 BitVec.and_zero (by decide)

/-- The row that the decoder answers with applies to the word (R71): for a DECODE and a BLOCK because the word is the
encoding, for the other two because their masks leave out the bits that the decoder drops. -/
theorem dispatchWord_and_rowMask (f : Word64) (w : Word32) :
    dispatchWord f w &&& rowMask (decodeCommandWord f w) = rowMatch (decodeCommandWord f w) := by
  by_cases hkeeps : w = 0 ∨ w = 1
  · rw [← encode_decodeCommandWord f hkeeps]
    exact encode_and_rowMask _
  · obtain ⟨h0, h1⟩ := not_or.mp hkeeps
    rw [decodeCommandWord, if_neg h0, if_neg h1]
    split_ifs with h2
    · rw [h2]
      exact dispatchWord_and_rowMask_flush f
    · exact BitVec.and_zero

/-- Settles O3. -/
theorem decodedRowApplies : Obligations.DecodedRowApplies := by
  intro cw
  rw [← dispatchWord_extract cw, decodeWord_dispatchWord]
  exact ⟨decodeCommandWord_wellFormed _ _, dispatchWord_and_rowMask _ _⟩

/-! ## O1: words of the table -/

/-- Settles O1, by running the decoder on the twelve words. -/
theorem tableWordsDecode : Obligations.TableWordsDecode := by
  unfold Obligations.TableWordsDecode
  decide

end Sys2Proof.Machine
end

section
/-! PROOF. O43: the colour of a T, H or planar block is made of the bits of its layout's fields and of the pixel indices. Two
words that agree outside a list of ignored bits have equal fields wherever no ignored bit lies in the field's range. -/

namespace Sys2Proof.Machine

/-- The words agree in every bit that is not in the list. -/
def AgreeOutside (ignored : List Nat) (w w' : Word64) : Prop :=
  ∀ k, k ∉ ignored → w.getLsbD k = w'.getLsbD k

section
variable {ignored : List Nat} {w w' : Word64}

/-- Bit `i` of a bit field (R8). -/
theorem testBit_bits {n : Nat} (v : BitVec n) (hi lo i : Nat) :
    (bits v hi lo).testBit i = (decide (i < hi + 1 - lo) && v.getLsbD (lo + i)) := by
  rw [bits, Nat.testBit_mod_two_pow, Nat.testBit_shiftRight, BitVec.getLsbD]

/-- A field with no ignored bit in its range is the same in both words (R86). -/
theorem AgreeOutside.bits_eq (h : AgreeOutside ignored w w') {hi lo : Nat} (hrange : ∀ k ∈ ignored, k < lo ∨ hi < k) :
    bits w hi lo = bits w' hi lo := by
  refine Nat.eq_of_testBit_eq fun i => ?_
  rw [testBit_bits, testBit_bits]
  by_cases hfield : i < hi + 1 - lo
  · have hkept : lo + i ∉ ignored := fun hmem => by have := hrange _ hmem; omega
    rw [h _ hkept]
  · simp [hfield]

theorem AgreeOutside.bit_eq (h : AgreeOutside ignored w w') {i : Nat} (hi : i ∉ ignored) : bit w i = bit w' i :=
  h.bits_eq fun _ hk => Nat.lt_or_gt_of_ne (ne_of_mem_of_not_mem hk hi)

/-- The pixel indices lie in the lower half of the word (R83), and no layout ignores a bit there. -/
theorem AgreeOutside.etcIndex_eq (h : AgreeOutside ignored w w') (hhigh : ∀ k ∈ ignored, 32 ≤ k) {j : Nat} (hj : j < 16) :
    etcIndex w j = etcIndex w' j := by
  have hlow {i : Nat} (hi : i < 32) : i ∉ ignored := fun hmem => by have := hhigh i hmem; omega
  rw [etcIndex, etcIndex, h.bit_eq (hlow (by omega)), h.bit_eq (hlow (by omega))]

end

/-! ## The three layouts -/

/-- R87: the ignored bits of the T layout make the red sum of the mode choice overflow, and are in no field. -/
theorem tPaint_congr {w w' : Word64} (h : AgreeOutside [63, 62, 61, 58] w w') (idx : Nat) :
    tPaint w idx = tPaint w' idx := by
  have hcolour (second : Bool) : tColour w second = tColour w' second := by
    simp (disch := decide) only [tColour, h.bits_eq]
  have hdistance : tDistance w = tDistance w' := by
    simp (disch := decide) only [tDistance, h.bits_eq, h.bit_eq]
  simp only [tPaint, hcolour, hdistance]

/-- R88: the fields of an H block, which the order of its colours is read from as well (R151). -/
theorem hPaint_congr {w w' : Word64} (h : AgreeOutside [63, 55, 54, 53, 50] w w') (idx : Nat) :
    hPaint w idx = hPaint w' idx := by
  have hfields (second : Bool) : hFields w second = hFields w' second := by
    simp (disch := decide) only [hFields, h.bits_eq, h.bit_eq]
  have hcolour (second : Bool) : hColour w second = hColour w' second := by
    rw [hColour, hColour, hfields]
  have hpacked (second : Bool) : hPacked w second = hPacked w' second := by
    rw [hPacked, hPacked, hfields]
  have hdistance : hDistance w = hDistance w' := by
    simp (disch := decide) only [hDistance, hpacked, h.bit_eq]
  simp only [hPaint, hcolour, hdistance]

/-- R89: the fields of the three corners of a planar block. -/
theorem planarColour_congr {w w' : Word64} (h : AgreeOutside [63, 55, 47, 46, 45, 42] w w') (x y : Nat) :
    planarColour w x y = planarColour w' x y := by
  have horigin : planarOrigin w = planarOrigin w' := by
    simp (disch := decide) only [planarOrigin, h.bits_eq, h.bit_eq]
  have hhorizontal : planarHorizontal w = planarHorizontal w' := by
    simp (disch := decide) only [planarHorizontal, h.bits_eq, h.bit_eq]
  have hvertical : planarVertical w = planarVertical w' := by
    simp (disch := decide) only [planarVertical, h.bits_eq]
  simp only [planarColour, horigin, hhorizontal, hvertical]

/-- Settles O43, one layout after the other; the T and the H layout take the pixel's index from the word as well. -/
theorem etcIgnoredBitsDoNotCount : Obligations.EtcIgnoredBitsDoNotCount := by
  intro f w w' x y hx hy
  have hpixel : 4 * x + y < 16 := by omega
  refine ⟨fun (ht : AgreeOutside _ w w') => ?t, fun (hh : AgreeOutside _ w w') => ?h,
    fun hp => planarColour_congr hp x y⟩
  case t =>
    simp only [etcColour, ht.etcIndex_eq (by decide) hpixel]
    exact tPaint_congr ht _
  case h =>
    simp only [etcColour, hh.etcIndex_eq (by decide) hpixel]
    exact hPaint_congr hh _

end Sys2Proof.Machine
end

section
/-! PROOF. O56: the fields of a container are read back from the offsets at which `containerOf` lays them out, so that the
parser finds every check of R251 met and answers the fields. -/

namespace Sys2Proof.Machine

/-! ## A field written and read in little-endian bytes (R11, R55) -/

@[simp] theorem leBytes_length (n v : Nat) : (leBytes n v).length = n := by simp [leBytes]

theorem leBytes_succ (n v : Nat) : leBytes (n + 1) v = BitVec.ofNat 8 v :: leBytes n (v / 256) := by
  simp [leBytes, List.range_succ_eq_map, Nat.pow_succ', Nat.div_div_eq_div_mul]

theorem leValue_leBytes (n v : Nat) : leValue (leBytes n v) = v % 256 ^ n := by
  induction n generalizing v with
  | zero => simp [leBytes, leValue, Nat.mod_one]
  | succ n ih =>
    rw [leBytes_succ, leValue, ih, BitVec.toNat_ofNat, Nat.pow_succ' (m := 256)]
    exact Nat.mod_mul.symm

/-- The 32-bit and the 64-bit fields of the header are read back (R76). -/
@[simp] theorem leWord_leBytes_four (v : Nat) : leWord 32 (leBytes 4 v) = BitVec.ofNat 32 v := by
  rw [leWord, leValue_leBytes]
  exact BitVec.eq_of_toNat_eq (by simp)

@[simp] theorem leWord_leBytes_eight (v : Nat) : leWord 64 (leBytes 8 v) = BitVec.ofNat 64 v := by
  rw [leWord, leValue_leBytes]
  exact BitVec.eq_of_toNat_eq (by simp)

/-! ## Slices of a list made of parts -/

/-- A slice at the front of a list is the part that stands there. -/
theorem byteSlice_append_front {l r : List Byte} {n : Nat} (h : l.length = n) : byteSlice (l ++ r) 0 n = l := by
  simp [byteSlice, ← h]

/-- A slice past a part is a slice of what follows the part. -/
theorem byteSlice_append_past {l r : List Byte} {lo : Nat} (n : Nat) (h : l.length ≤ lo) :
    byteSlice (l ++ r) lo n = byteSlice r (lo - l.length) n := by
  simp [byteSlice, List.drop_append, List.drop_eq_nil_of_le h]

/-! ## The container -/

theorem containerOf_length (h : Header) : (containerOf h).length = headerBytes + h.metadata.length + h.payload.length := by
  simp [containerOf, headerBytes]; omega

theorem headerWord_magic (h : Header) : headerWord (containerOf h) 0 = headerMagic := by
  simp [headerWord, containerOf, byteSlice_append_front, headerMagic]

theorem headerWord_metadataLength (h : Header) :
    headerWord (containerOf h) 0x30 = BitVec.ofNat 32 h.metadata.length := by
  simp [headerWord, containerOf, byteSlice_append_front, byteSlice_append_past]

/-- The payload stands past the metadata. -/
theorem containerOf_drop (h : Header) : (containerOf h).drop (headerBytes + h.metadata.length) = h.payload :=
  List.drop_left' (by simp [headerBytes]; omega)

/-- Every field is read back, where the metadata is short enough for its length field (R76). -/
theorem readHeader_containerOf {h : Header} (hlen : h.metadata.length < 2 ^ 32) : readHeader (containerOf h) = h := by
  have hmeta : (headerWord (containerOf h) 0x30).toNat = h.metadata.length := by
    rw [headerWord_metadataLength]
    exact Nat.mod_eq_of_lt hlen
  rw [readHeader, hmeta, containerOf_drop]
  simp [headerWord, headerBytes, containerOf, byteSlice_append_front, byteSlice_append_past]

/-! ## The parser and the load -/

/-- A known format passes the format check of the parser (R251). -/
theorem FormatKnown.passes {p : Config.Params} {fmt : Word64} (h : FormatKnown p fmt) :
    ¬ (bits fmt 63 32 = 0 ∧ isKnown p (bits fmt 31 0) = false) :=
  fun ⟨hnamed, hunknown⟩ => h.classOf_ne_unknown (by simp [classOf, hnamed, hunknown])

/-- A container of legal fields that is longer than its header is accepted (R251). -/
theorem parseContainer_containerOf {p : Config.Params} {h : Header} (hflags : h.flags.toNat ≤ 1)
    (hcspace : h.cspace.toNat ≤ 1) (hchtype : h.chtype.toNat ≤ 12) (hfmt : FormatKnown p h.fmt)
    (hlen : h.metadata.length < 2 ^ 32) (hlong : 0 < h.metadata.length + h.payload.length) :
    parseContainer p (some (containerOf h)) = .ok h := by
  have hheader : ¬ (containerOf h).length ≤ headerBytes := by rw [containerOf_length]; omega
  have hmeta : ¬ (containerOf h).length < (headerWord (containerOf h) 0x30).toNat + headerBytes := by
    rw [containerOf_length, headerWord_metadataLength, BitVec.toNat_ofNat, Nat.mod_eq_of_lt hlen]
    omega
  simp only [parseContainer, readHeader_containerOf hlen]
  rw [if_neg hheader, if_neg (not_not.mpr (headerWord_magic h)), if_neg hflags.not_gt, if_neg hcspace.not_gt,
    if_neg hchtype.not_gt, if_neg hfmt.passes, if_neg hmeta]

/-- The load of an accepted container (R251). -/
theorem step_loadContainer_of_ok {s : State} {buffer : Option (List Byte)} {h : Header} {rest : List HostEvent}
    (hh : s.host = .loadContainer buffer :: rest) (hc : s.unit.cmd = none) (hp : parseContainer s.params buffer = .ok h)
    (hfits : h.payload.length < 2 ^ 32) : step s = .next ((s.withHost rest).withUnit (loadHeader s.unit h)) := by
  rw [step_of_idle hh hc]
  rcases admittedAccess_loadContainer (s.withHost rest) buffer with ⟨h', hok, hstep⟩ | ⟨e, herr, -⟩
  · cases hok.symm.trans hp
    exact hstep.trans (if_pos (decide_eq_true hfits))
  · cases herr.symm.trans hp

/-- Settles O56: the parser accepts the container, and the load writes the header's registers and the payload. -/
theorem containerRoundTrip : Obligations.ContainerRoundTrip := by
  intro s h rest hflags hcspace hchtype hfmt hlen hfits hlong hc hh
  have hp := parseContainer_containerOf hflags hcspace hchtype hfmt hlen hlong
  refine ⟨hp, BitVec.ofNat 32 h.payload.length, Memory.writeFrom s.unit.payload 0 h.payload, ?_, ?_, ?_⟩
  · exact step_loadContainer_of_ok hh hc hp hfits
  · exact Nat.mod_eq_of_lt hfits
  · exact read_writeFrom_zero h.payload s.unit.payload

end Sys2Proof.Machine
end

section
/-! PROOF. O33: the DXT BLOCK commands. What a BLOCK with its latch written does is said for every format with a datapath;
the DXT tile then gives the entries of `BLK_OUT`. -/

namespace Sys2Proof.Machine

/-! ## A BLOCK that completes -/

/-- A known code runs its own datapath, whatever `ETC_ROUTED` says (R234). -/
theorem blockClassOf_named {p : Config.Params} {n : Nat} (hn : n < 2 ^ 32) (hk : n ∈ p.knownFormats) :
    blockClassOf p (BitVec.ofNat 64 n) = datapathOf n := by
  simp [blockClassOf, bits_named hn, isKnown, hk]

/-- A BLOCK whose latch bytes are written completes with the tile of its datapath in `BLK_OUT` (R234, R235). -/
theorem blockCommand_of_latchHolds {fmt : Word64} {s : State} {c : FormatClass} {bytes : List Byte}
    (hf : s.unit.fmt.isSome = true) (hc : blockClassOf s.params fmt = some c)
    (hl : LatchHolds s.unit c.latchBytes bytes) :
    blockCommand fmt s = .next (s.blockDone (blkOutAfter s.unit.blkOut (blockTile c bytes))) := by
  simp only [blockCommand, blockProcedure, readFmt_some hf, hc, readLatch_written hl, bind, Except.bind, pure, Except.pure,
    complete_block, finish_ok]

/-! ## The DXT tile -/

@[simp] theorem dxtTile_length (f : DxtFormat) (b : List Byte) : (dxtTile f b).length = 16 := by simp [dxtTile]

theorem tileAt_dxtTile (f : DxtFormat) (b : List Byte) {i : Nat} (hi : i < 16) :
    tileAt (dxtTile f b) i = dxtPixel f b i := by
  simp [tileAt, dxtTile, List.getD_eq_getElem?_getD, hi]

/-- `BLK_OUT` after the tile of a DXT block (R40, R119). -/
theorem blkOutAfter_dxtTile_get (old : Vector (Option Pixel) 32) (f : DxtFormat) (b : List Byte) (k : Fin 32) :
    (blkOutAfter old (dxtTile f b)).get k = if k.val < 16 then some (dxtPixel f b k.val) else old.get k := by
  rw [blkOutAfter_get, dxtTile_length]
  split
  · next hk => rw [tileAt_dxtTile f b hk]
  · rfl

/-- Each DXT BLOCK is the BLOCK of a code whose datapath is its format's (R72, R234). -/
theorem dxtBlocks_spec {p : Instr × DxtFormat × Nat} (hp : p ∈ dxtBlocks) :
    p.2.2 < 2 ^ 32 ∧ datapathOf p.2.2 = some (.dxt p.2.1) ∧ ∀ s, exec p.1 s = blockCommand (BitVec.ofNat 64 p.2.2) s := by
  simp only [dxtBlocks, List.mem_cons, List.not_mem_nil, or_false] at hp
  rcases hp with rfl | rfl | rfl
  · exact ⟨by decide, rfl, fun _ => rfl⟩
  · exact ⟨by decide, rfl, fun _ => rfl⟩
  · exact ⟨by decide, rfl, fun _ => rfl⟩

/-- Settles O33: each DXT BLOCK completes with the tile of its format, whose entries are the 16 pixels. -/
theorem dxtBlockWritesLatch : Obligations.DxtBlockWritesLatch := by
  intro p hp s bytes hf hk hl
  obtain ⟨hcode, hdatapath, hexec⟩ := dxtBlocks_spec hp
  have hclass : blockClassOf s.params (BitVec.ofNat 64 p.2.2) = some (.dxt p.2.1) :=
    (blockClassOf_named hcode hk).trans hdatapath
  exact ⟨_, (hexec s).trans (blockCommand_of_latchHolds hf hclass hl), blkOutAfter_dxtTile_get _ _ _⟩

end Sys2Proof.Machine
end

section
/-! PROOF. O45: every palette entry but the fixed ones is an endpoint or a weighted mean of the two endpoints, and such a
mean, truncated, lies between them. -/

namespace Sys2Proof.Machine

/-! ## Weighted means -/

/-- `v` lies between `a` and `b`, in either order. -/
def Between (a b v : Nat) : Prop := min a b ≤ v ∧ v ≤ max a b

theorem between_left (a b : Nat) : Between a b a := ⟨Nat.min_le_left a b, Nat.le_max_left a b⟩

theorem between_right (a b : Nat) : Between a b b := ⟨Nat.min_le_right a b, Nat.le_max_right a b⟩

/-- A weighted mean lies between its endpoints, also after truncation (R113). -/
theorem between_weightedMean (a b : Nat) {m n d : Nat} (hd : m + n = d) (hpos : 0 < d) :
    Between a b ((m * a + n * b) / d) := by
  constructor
  · rw [Nat.le_div_iff_mul_le hpos]
    calc min a b * d = m * min a b + n * min a b := by rw [← hd]; ring
      _ ≤ m * a + n * b := by gcongr <;> omega
  · refine Nat.div_le_of_le_mul ?_
    calc m * a + n * b ≤ m * max a b + n * max a b := by gcongr <;> omega
      _ = d * max a b := by rw [← hd]; ring

/-! ## The colour palette (R111 to R113) -/

theorem rep5_le_of_lt {v : Nat} (h : v < 2 ^ 5) : rep5 v ≤ 255 := by
  have hshift : v <<< 3 < 2 ^ 8 := by rw [Nat.shiftLeft_eq]; omega
  have hlow : v >>> 2 < 2 ^ 8 := by rw [Nat.shiftRight_eq_div_pow]; omega
  have hor : rep5 v < 2 ^ 8 := Nat.or_lt_two_pow hshift hlow
  omega

theorem rep6_le_of_lt {v : Nat} (h : v < 2 ^ 6) : rep6 v ≤ 255 := by
  have hshift : v <<< 2 < 2 ^ 8 := by rw [Nat.shiftLeft_eq]; omega
  have hlow : v >>> 4 < 2 ^ 8 := by rw [Nat.shiftRight_eq_div_pow]; omega
  have hor : rep6 v < 2 ^ 8 := Nat.or_lt_two_pow hshift hlow
  omega

/-- R111: the endpoints are 8-bit colours. -/
theorem u565_fitsInBytes (v : BitVec 16) : (u565 v).FitsInBytes :=
  ⟨rep5_le_of_lt (bits_lt_two_pow v 15 11), rep6_le_of_lt (bits_lt_two_pow v 10 5), rep5_le_of_lt (bits_lt_two_pow v 4 0)⟩

/-- Each channel of `e` lies between those of `c` and `d`. -/
def Rgb.BetweenColours (c d e : Rgb) : Prop := Between c.r d.r e.r ∧ Between c.g d.g e.g ∧ Between c.b d.b e.b

theorem Rgb.betweenColours_left (c d : Rgb) : c.BetweenColours d c :=
  ⟨between_left _ _, between_left _ _, between_left _ _⟩

theorem Rgb.betweenColours_right (c d : Rgb) : c.BetweenColours d d :=
  ⟨between_right _ _, between_right _ _, between_right _ _⟩

theorem Rgb.betweenColours_zip {f : Nat → Nat → Nat} (hf : ∀ a b, Between a b (f a b)) (c d : Rgb) :
    c.BetweenColours d (Rgb.zip f c d) :=
  ⟨hf _ _, hf _ _, hf _ _⟩

/-- A colour between two colours that fit in bytes fits in bytes. -/
theorem Rgb.BetweenColours.fitsInBytes {c d e : Rgb} (h : c.BetweenColours d e) (hc : c.FitsInBytes) (hd : d.FitsInBytes) :
    e.FitsInBytes := by
  obtain ⟨⟨-, hr⟩, ⟨-, hg⟩, ⟨-, hb⟩⟩ := h
  obtain ⟨hcr, hcg, hcb⟩ := hc
  obtain ⟨hdr, hdg, hdb⟩ := hd
  exact ⟨hr.trans (Nat.max_le.mpr ⟨hcr, hdr⟩), hg.trans (Nat.max_le.mpr ⟨hcg, hdg⟩), hb.trans (Nat.max_le.mpr ⟨hcb, hdb⟩)⟩

/-- R112: the four-colour palette. -/
theorem dxtPalette_fourColour {c0v c1v : BitVec 16} (h : c1v.toNat < c0v.toNat) :
    dxtPalette c0v c1v = [(u565 c0v, .solid), (u565 c1v, .solid),
      (Rgb.zip (fun p q => (2 * p + q) / 3) (u565 c0v) (u565 c1v), .solid),
      (Rgb.zip (fun p q => (p + 2 * q) / 3) (u565 c0v) (u565 c1v), .solid)] :=
  if_pos h

/-- R112: the three-colour palette, with its clear entry. -/
theorem dxtPalette_threeColour {c0v c1v : BitVec 16} (h : ¬ c1v.toNat < c0v.toNat) :
    dxtPalette c0v c1v = [(u565 c0v, .solid), (u565 c1v, .solid),
      (Rgb.zip (fun p q => (p + q) / 2) (u565 c0v) (u565 c1v), .solid), (⟨0, 0, 0⟩, .clear)] :=
  if_neg h

/-- R112: an entry of either palette is a solid colour between the endpoints, or it is the clear entry, black. -/
theorem dxtPalette_mem {c0v c1v : BitVec 16} {e : Rgb × AlphaTag} (he : e ∈ dxtPalette c0v c1v) :
    (e.2 = .solid ∧ (u565 c0v).BetweenColours (u565 c1v) e.1) ∨ e = (⟨0, 0, 0⟩, .clear) := by
  have hthird (a b : Nat) : Between a b ((2 * a + b) / 3) := by
    simpa only [Nat.one_mul] using between_weightedMean a b (m := 2) (n := 1) rfl (by decide)
  have htwoThirds (a b : Nat) : Between a b ((a + 2 * b) / 3) := by
    simpa only [Nat.one_mul] using between_weightedMean a b (m := 1) (n := 2) rfl (by decide)
  have hhalf (a b : Nat) : Between a b ((a + b) / 2) := by
    simpa only [Nat.one_mul] using between_weightedMean a b (m := 1) (n := 1) rfl (by decide)
  by_cases h : c1v.toNat < c0v.toNat
  · rw [dxtPalette_fourColour h] at he
    simp only [List.mem_cons, List.not_mem_nil, or_false] at he
    rcases he with rfl | rfl | rfl | rfl
    · exact .inl ⟨rfl, Rgb.betweenColours_left _ _⟩
    · exact .inl ⟨rfl, Rgb.betweenColours_right _ _⟩
    · exact .inl ⟨rfl, Rgb.betweenColours_zip hthird _ _⟩
    · exact .inl ⟨rfl, Rgb.betweenColours_zip htwoThirds _ _⟩
  · rw [dxtPalette_threeColour h] at he
    simp only [List.mem_cons, List.not_mem_nil, or_false] at he
    rcases he with rfl | rfl | rfl | rfl
    · exact .inl ⟨rfl, Rgb.betweenColours_left _ _⟩
    · exact .inl ⟨rfl, Rgb.betweenColours_right _ _⟩
    · exact .inl ⟨rfl, Rgb.betweenColours_zip hhalf _ _⟩
    · exact .inr rfl

/-- The entry of a code is one of the palette's, or the clear one for a code past the palette. -/
theorem dxtEntry_cases (c0v c1v : BitVec 16) (k : Nat) :
    ((dxtEntry c0v c1v k).2 = .solid ∧ (u565 c0v).BetweenColours (u565 c1v) (dxtEntry c0v c1v k).1) ∨
      dxtEntry c0v c1v k = (⟨0, 0, 0⟩, .clear) := by
  rw [dxtEntry, List.getD_eq_getElem?_getD]
  rcases hk : (dxtPalette c0v c1v)[k]? with _ | e
  · exact .inr rfl
  · exact dxtPalette_mem (List.mem_of_getElem? hk)

/-- R113: a solid entry lies between the endpoints. -/
theorem dxtEntry_betweenColours {c0v c1v : BitVec 16} {k : Nat} (h : (dxtEntry c0v c1v k).2 = .solid) :
    (u565 c0v).BetweenColours (u565 c1v) (dxtEntry c0v c1v k).1 := by
  rcases dxtEntry_cases c0v c1v k with ⟨-, hbetween⟩ | hclear
  · exact hbetween
  · simp [hclear] at h

/-! ## The DXT5 alpha palette (R115) -/

/-- The gradients, of 7 steps or of 5, lie between the endpoints; the fixed entries 6 and 7 are no part of the second. -/
theorem dxt5Alpha_between {a0 a1 k : Nat} (hk : k < 8) (h : k < 6 ∨ a1 < a0) : Between a0 a1 (dxt5Alpha a0 a1 k) := by
  unfold dxt5Alpha
  split_ifs
  · exact between_left a0 a1
  · exact between_right a0 a1
  · exact between_weightedMean a0 a1 (by omega) (by decide)
  · omega
  · omega
  · exact between_weightedMean a0 a1 (by omega) (by decide)

/-- The fixed entries of the 5-step case. -/
theorem dxt5Alpha_fixed {a0 a1 : Nat} (h : ¬ a1 < a0) : dxt5Alpha a0 a1 6 = 0 ∧ dxt5Alpha a0 a1 7 = 255 := by
  simp [dxt5Alpha, h]

theorem dxt5Alpha_le {a0 a1 k : Nat} (h0 : a0 ≤ 255) (h1 : a1 ≤ 255) (hk : k < 8) : dxt5Alpha a0 a1 k ≤ 255 := by
  by_cases h : k < 6 ∨ a1 < a0
  · exact (dxt5Alpha_between hk h).2.trans (Nat.max_le.mpr ⟨h0, h1⟩)
  · obtain ⟨hsix, hseven⟩ := dxt5Alpha_fixed (a0 := a0) (a1 := a1) (by omega)
    obtain rfl | rfl : k = 6 ∨ k = 7 := by omega
    · omega
    · omega

/-- Settles O45: the colours by the entries of the two palettes, the alphas by the two gradients and the fixed entries. -/
theorem dxtPalettesLieBetweenEndpoints : Obligations.DxtPalettesLieBetweenEndpoints := by
  refine ⟨fun c0v c1v k _ hsolid => ?colour, fun a0 a1 k h0 h1 hk => ?alpha⟩
  case colour =>
    have hbetween := dxtEntry_betweenColours hsolid
    have hfits := hbetween.fitsInBytes (u565_fitsInBytes c0v) (u565_fitsInBytes c1v)
    obtain ⟨hr, hg, hb⟩ := hbetween
    exact ⟨hr, hg, hb, hfits⟩
  case alpha => exact ⟨dxt5Alpha_le h0 h1 hk, dxt5Alpha_between hk⟩

end Sys2Proof.Machine
end

section
/-! PROOF. O46: a DXT pixel's colour is the colour of its palette entry in every format, the clear entry being black; its
alpha is the tag's in DXT1 and a field of the alpha block in DXT3 and DXT5. -/

namespace Sys2Proof.Machine

/-! ## Bytes and fields of a little-endian word (R8, R11) -/

/-- A slice of a slice, inside it, is a slice of the list. -/
theorem byteSlice_byteSlice (b : List Byte) (start : Nat) {m lo n : Nat} (h : lo + n ≤ m) :
    byteSlice (byteSlice b start m) lo n = byteSlice b (start + lo) n := by
  simp only [byteSlice, List.drop_take, List.drop_drop, List.take_take]
  rw [Nat.min_eq_left (by omega)]

theorem byteSlice_length_le (b : List Byte) (lo n : Nat) : (byteSlice b lo n).length ≤ n := List.length_take_le ..

theorem byteSlice_getD (b : List Byte) (lo : Nat) {n k : Nat} (h : k < n) (d : Byte) :
    (byteSlice b lo n).getD k d = b.getD (lo + k) d := by
  simp [byteSlice, List.getD_eq_getElem?_getD, h]

theorem leValue_lt (bs : List Byte) : leValue bs < 256 ^ bs.length := by
  induction bs with
  | nil => decide
  | cons b bs ih =>
    have hb := b.isLt
    rw [leValue, List.length_cons, Nat.pow_succ']
    omega

/-- A word that has room for its bytes is their value. -/
theorem toNat_leWord {n : Nat} {bs : List Byte} (h : 8 * bs.length ≤ n) : (leWord n bs).toNat = leValue bs := by
  have hlt : leValue bs < 2 ^ n := calc
    leValue bs < 256 ^ bs.length := leValue_lt bs
    _ = 2 ^ (8 * bs.length) := by rw [Nat.pow_mul]
    _ ≤ 2 ^ n := Nat.pow_le_pow_right (by decide) h
  rw [leWord, BitVec.toNat_ofNat, Nat.mod_eq_of_lt hlt]

/-- Byte `k` of a little-endian value. -/
theorem leValue_div_mod (bs : List Byte) (k : Nat) : leValue bs / 256 ^ k % 256 = (bs.getD k 0).toNat := by
  induction bs generalizing k with
  | nil => simp [leValue]
  | cons b bs ih =>
    have hb := b.isLt
    cases k with
    | zero => simp only [leValue, List.getD_cons_zero]; omega
    | succ k =>
      have hrest : (b.toNat + 256 * leValue bs) / 256 = leValue bs := by omega
      rw [leValue, Nat.pow_succ', ← Nat.div_div_eq_div_mul, hrest, ih, List.getD_cons_succ]

/-- One byte as a value. -/
theorem leValue_byteSlice_one (b : List Byte) (k : Nat) : leValue (byteSlice b k 1) = (b.getD k 0).toNat := by
  have hlt : leValue (byteSlice b k 1) < 256 := calc
    leValue (byteSlice b k 1) < 256 ^ (byteSlice b k 1).length := leValue_lt _
    _ ≤ 256 ^ 1 := Nat.pow_le_pow_right (by decide) (byteSlice_length_le b k 1)
  have hbyte := leValue_div_mod (byteSlice b k 1) 0
  rw [byteSlice_getD b k Nat.one_pos] at hbyte
  simpa [Nat.mod_eq_of_lt hlt] using hbyte

/-- Nibble `i` of a little-endian value: the low nibble of a byte before the high one (R81). -/
theorem leValue_nibble (bs : List Byte) (i : Nat) :
    leValue bs / 16 ^ i % 16 = (bs.getD (i / 2) 0).toNat / 16 ^ (i % 2) % 16 := by
  have hsplit : 16 ^ i = 256 ^ (i / 2) * 16 ^ (i % 2) := by
    rw [show (256 : Nat) = 16 ^ 2 from rfl, ← Nat.pow_mul, ← Nat.pow_add, Nat.div_add_mod]
  rw [hsplit, ← Nat.div_div_eq_div_mul, ← leValue_div_mod]
  rcases Nat.mod_two_eq_zero_or_one i with h | h <;> rw [h] <;> omega

/-- Field `i` of a word that is cut into fields of `w` bits (R80 to R82). -/
theorem bits_field {n : Nat} (v : BitVec n) {w i hi : Nat} (h : hi + 1 = w * i + w) :
    bits v hi (w * i) = v.toNat / (2 ^ w) ^ i % 2 ^ w := by
  rw [bits, Nat.shiftRight_eq_div_pow, Nat.pow_mul, h, Nat.add_sub_cancel_left]

/-! ## The colour of a pixel (R112, R114, R118) -/

/-- The clear entry is black, also where no palette has an entry for the code. -/
theorem dxtColour_of_clear {cb : List Byte} {i : Nat} (h : (dxtColour cb i).2 = .clear) :
    (dxtColour cb i).1 = ⟨0, 0, 0⟩ := by
  rcases dxtEntry_cases (leWord 16 (byteSlice cb 0 2)) (leWord 16 (byteSlice cb 2 2))
    (bits (leWord 32 (byteSlice cb 4 4)) (2 * i + 1) (2 * i)) with ⟨hsolid, -⟩ | hclear
  · exact absurd (hsolid.symm.trans h) (by decide)
  · exact congrArg Prod.fst hclear

/-- The pixel has the colour `c`, narrowed to bytes. -/
def Pixel.HasColour (p : Pixel) (c : Rgb) : Prop :=
  p.r = BitVec.ofNat 8 c.r ∧ p.g = BitVec.ofNat 8 c.g ∧ p.b = BitVec.ofNat 8 c.b

theorem Rgb.toPixel_hasColour (c : Rgb) (a : Nat) : (c.toPixel a).HasColour c := ⟨rfl, rfl, rfl⟩

/-- A pixel has the colour of its palette entry, whatever the format and the tag: the transparent pixel is as black as the
clear entry. -/
theorem dxtPixel_hasColour (f : DxtFormat) (b : List Byte) (i : Nat) :
    (dxtPixel f b i).HasColour (dxtColour (dxtColourBlock f b) i).1 := by
  cases f with
  | dxt1 =>
    cases htag : (dxtColour (dxtColourBlock .dxt1 b) i).2 with
    | solid => simpa only [dxtPixel, dxtCompose, htag] using Rgb.toPixel_hasColour _ 255
    | clear => simp [dxtPixel, dxtCompose, htag, dxtColour_of_clear htag, transparentBlack, Pixel.HasColour]
  | dxt3 => exact Rgb.toPixel_hasColour _ _
  | dxt5 => exact Rgb.toPixel_hasColour _ _

/-- R110: the colour block of DXT3 and DXT5 is the DXT1 block at byte 8, so their pixels have the colours of its pixels. -/
theorem dxtPixel_colour_eq {f : DxtFormat} {b : List Byte} (hf : dxtColourBlock f b = dxtColourBlock .dxt1 (b.drop 8))
    (i : Nat) :
    (dxtPixel f b i).r = (dxtPixel .dxt1 (b.drop 8) i).r ∧ (dxtPixel f b i).g = (dxtPixel .dxt1 (b.drop 8) i).g ∧
      (dxtPixel f b i).b = (dxtPixel .dxt1 (b.drop 8) i).b := by
  obtain ⟨hr, hg, hb⟩ := hf ▸ dxtPixel_hasColour f b i
  obtain ⟨hr1, hg1, hb1⟩ := dxtPixel_hasColour .dxt1 (b.drop 8) i
  exact ⟨hr.trans hr1.symm, hg.trans hg1.symm, hb.trans hb1.symm⟩

/-! ## The transparency of DXT1 (R112, R118) -/

/-- R112: of the four codes, only code 3 of the three-colour case has the clear entry. -/
theorem dxtEntry_clear_iff (c0v c1v : BitVec 16) {k : Nat} (hk : k < 4) :
    (dxtEntry c0v c1v k).2 = .clear ↔ c0v.toNat ≤ c1v.toNat ∧ k = 3 := by
  by_cases h : c1v.toNat < c0v.toNat
  · rw [dxtEntry, dxtPalette_fourColour h]
    interval_cases k <;> simp [h]
  · rw [dxtEntry, dxtPalette_threeColour h]
    interval_cases k <;> simp [Nat.le_of_not_lt h]

/-- R80, R114: the palette entry of pixel `i` of a DXT1 block is clear for code 3 of the three-colour case. -/
theorem dxtColour_dxt1_clear_iff (b : List Byte) (i : Nat) :
    (dxtColour (dxtColourBlock .dxt1 b) i).2 = .clear ↔
      (leWord 16 (byteSlice b 0 2)).toNat ≤ (leWord 16 (byteSlice b 2 2)).toNat ∧
        bits (leWord 32 (byteSlice b 4 4)) (2 * i + 1) (2 * i) = 3 := by
  have hcode : bits (leWord 32 (byteSlice b 4 4)) (2 * i + 1) (2 * i) < 4 := by
    rw [bits_field (w := 2) _ rfl]
    exact Nat.mod_lt _ (by decide)
  rw [dxtColour, dxtColourBlock, byteSlice_byteSlice b 0 (by decide), byteSlice_byteSlice b 0 (by decide),
    byteSlice_byteSlice b 0 (by decide)]
  exact dxtEntry_clear_iff _ _ hcode

theorem dxtPixel_dxt1_of_clear {b : List Byte} {i : Nat} (h : (dxtColour (dxtColourBlock .dxt1 b) i).2 = .clear) :
    dxtPixel .dxt1 b i = transparentBlack := by simp [dxtPixel, dxtCompose, h]

theorem dxtPixel_dxt1_of_ne_clear {b : List Byte} {i : Nat} (h : (dxtColour (dxtColourBlock .dxt1 b) i).2 ≠ .clear) :
    (dxtPixel .dxt1 b i).a = 255 := by
  have hsolid : (dxtColour (dxtColourBlock .dxt1 b) i).2 = .solid := by
    cases htag : (dxtColour (dxtColourBlock .dxt1 b) i).2 with
    | solid => rfl
    | clear => exact absurd htag h
  simp [dxtPixel, dxtCompose, hsolid, Rgb.toPixel]

/-! ## The alphas of DXT3 and DXT5 (R116, R117) -/

/-- The replication of a 4-bit field is 17 times the field. -/
theorem rep4_eq_of_lt {v : Nat} (h : v < 16) : rep4 v = 17 * v := by
  rw [rep4, Nat.shiftLeft_eq, Nat.mul_comm v, Nat.two_pow_add_eq_or_of_lt (i := 4) h v |>.symm]
  omega

theorem dxt3PixelAlpha_eq (b : List Byte) {i : Nat} (hi : i < 16) :
    dxt3PixelAlpha b i = 17 * ((b.getD (i / 2) 0).toNat / 16 ^ (i % 2) % 16) := by
  have hlen : 8 * (byteSlice b 0 8).length ≤ 64 := by have := byteSlice_length_le b 0 8; omega
  have hfield : bits (leWord 64 (byteSlice b 0 8)) (4 * i + 3) (4 * i) = leValue (byteSlice b 0 8) / 16 ^ i % 16 := by
    rw [bits_field (w := 4) _ rfl, toNat_leWord hlen]
    rfl
  have hbyte : (byteSlice b 0 8).getD (i / 2) 0 = b.getD (i / 2) 0 := by
    rw [byteSlice_getD b 0 (by omega), Nat.zero_add]
  rw [dxt3PixelAlpha, hfield, leValue_nibble, hbyte, rep4_eq_of_lt (Nat.mod_lt _ (by decide))]

theorem dxt5PixelAlpha_eq (b : List Byte) (i : Nat) :
    dxt5PixelAlpha b i =
      dxt5Alpha (b.getD 0 0).toNat (b.getD 1 0).toNat ((leWord 48 (byteSlice b 2 6)).toNat / 8 ^ i % 8) := by
  rw [dxt5PixelAlpha, leValue_byteSlice_one, leValue_byteSlice_one, bits_field (w := 3) _ rfl]
  rfl

theorem dxt3PixelAlpha_le (b : List Byte) {i : Nat} (hi : i < 16) : dxt3PixelAlpha b i ≤ 255 := by
  rw [dxt3PixelAlpha_eq b hi]
  omega

theorem dxt5PixelAlpha_le (b : List Byte) (i : Nat) : dxt5PixelAlpha b i ≤ 255 := by
  have hbyte (k : Nat) : (b.getD k 0).toNat ≤ 255 := Nat.le_of_lt_succ (b.getD k 0).isLt
  rw [dxt5PixelAlpha_eq]
  exact dxt5Alpha_le (hbyte 0) (hbyte 1) (Nat.mod_lt _ (by decide))

/-- Settles O46: the tag of DXT1's entry, the colours that the formats share, and the fields of the two alpha blocks. -/
theorem dxtTransparencyIsDxtOneOnly : Obligations.DxtTransparencyIsDxtOneOnly := by
  refine ⟨fun b i => ?transparency, fun b i => ?colours, fun b i hi => ⟨?alphaDxt3, ?alphaDxt5⟩⟩
  case transparency =>
    have hclear := dxtColour_dxt1_clear_iff b i
    split
    · next h => exact dxtPixel_dxt1_of_clear (hclear.mpr h)
    · next h => exact dxtPixel_dxt1_of_ne_clear (mt hclear.mp h)
  case colours =>
    obtain ⟨hr3, hg3, hb3⟩ := dxtPixel_colour_eq (f := .dxt3) (b := b) rfl i
    obtain ⟨hr5, hg5, hb5⟩ := dxtPixel_colour_eq (f := .dxt5) (b := b) rfl i
    exact ⟨hr3, hg3, hb3, hr5, hg5, hb5⟩
  case alphaDxt3 =>
    rw [← dxt3PixelAlpha_eq b hi]
    exact Nat.mod_eq_of_lt (Nat.lt_succ_of_le (dxt3PixelAlpha_le b hi))
  case alphaDxt5 =>
    rw [← dxt5PixelAlpha_eq b i]
    exact Nat.mod_eq_of_lt (Nat.lt_succ_of_le (dxt5PixelAlpha_le b i))

end Sys2Proof.Machine
end

section
/-! PROOF. O34: the ETC BLOCK commands. A BLOCK with its latch written completes for every format with a datapath (O33);
the ETC tile then gives the entries of `BLK_OUT`. -/

namespace Sys2Proof.Machine

/-- `BLK_OUT` after a tile that is given pixel by pixel (R40). -/
theorem blkOutAfter_map_range_get (old : Vector (Option Pixel) 32) (pixel : Nat → Pixel) (n : Nat) (k : Fin 32) :
    (blkOutAfter old ((List.range n).map pixel)).get k = if k.val < n then some (pixel k.val) else old.get k := by
  rw [blkOutAfter_get, List.length_map, List.length_range]
  split
  · next hk => simp [tileAt, List.getD_eq_getElem?_getD, hk]
  · rfl

/-- Each ETC BLOCK is the BLOCK of a code whose datapath is its format's (R72, R234). -/
theorem etcBlocks_spec {p : Instr × EtcFormat × Nat} (hp : p ∈ etcBlocks) :
    p.2.2 < 2 ^ 32 ∧ datapathOf p.2.2 = some (.etc p.2.1) ∧
      ∀ s, exec p.1 s = blockCommand (BitVec.ofNat 64 p.2.2) s := by
  simp only [etcBlocks, List.mem_cons, List.not_mem_nil, or_false] at hp
  rcases hp with rfl | rfl | rfl | rfl
  · exact ⟨by decide, rfl, fun _ => rfl⟩
  · exact ⟨by decide, rfl, fun _ => rfl⟩
  · exact ⟨by decide, rfl, fun _ => rfl⟩
  · exact ⟨by decide, rfl, fun _ => rfl⟩

/-- Settles O34: each ETC BLOCK completes with the tile of its format, whose entries are the 16 pixels row by row. -/
theorem etcBlockWritesLatch : Obligations.EtcBlockWritesLatch := by
  intro p hp s bytes hf hk hl
  obtain ⟨hcode, hdatapath, hexec⟩ := etcBlocks_spec hp
  have hclass : blockClassOf s.params (BitVec.ofNat 64 p.2.2) = some (.etc p.2.1) :=
    (blockClassOf_named hcode hk).trans hdatapath
  exact ⟨_, (hexec s).trans (blockCommand_of_latchHolds hf hclass hl), blkOutAfter_map_range_get _ _ _⟩

end Sys2Proof.Machine
end

section
/-! PROOF. O41: the mode of an ETC block. The sum that decides a case is a 5-bit field plus a signed 3-bit field, and the
bit that selects the individual mode is read for every format but ETC2_RGB_A1. -/

namespace Sys2Proof.Machine

theorem bit_eq_zero_iff {n : Nat} (v : BitVec n) (i : Nat) : bit v i = 0 ↔ v.getLsbD i = false := by
  rw [bit_eq]
  exact Bool.toNat_eq_zero

/-- R86, R142: a differential sum overflows where it leaves `[0, 31]`. -/
theorem sumOverflows_iff (base delta : Nat) :
    sumOverflows base delta = true ↔ (base : Int) + sext 3 delta < 0 ∨ 31 < (base : Int) + sext 3 delta := by
  simp [sumOverflows]

/-- The signed value of a 3-bit field (R10). -/
theorem sext_three (v : Nat) : sext 3 v = (v : Int) - if v < 4 then 0 else 8 := by
  unfold sext
  split <;> omega

/-- A bit field as a quotient and a remainder (R8). -/
theorem bits_eq_div_mod {n hi lo width : Nat} (v : BitVec n) (h : hi + 1 = lo + width) :
    bits v hi lo = v.toNat / 2 ^ lo % 2 ^ width := by
  rw [bits, Nat.shiftRight_eq_div_pow, h, Nat.add_sub_cancel_left]

/-- R142: the mode, with bit 33 as a Boolean. -/
theorem etcMode_eq (f : EtcFormat) (w : Word64) :
    etcMode f w =
      if f ≠ .rgbA1 ∧ w.getLsbD 33 = false then .individual
      else if sumOverflows (bits w 63 59) (bits w 58 56) then .t
      else if sumOverflows (bits w 55 51) (bits w 50 48) then .h
      else if sumOverflows (bits w 47 43) (bits w 42 40) then .planar
      else .differential := by
  simp only [etcMode, bit_eq_zero_iff]

/-- Settles O41: the sum that decides a case is that of the 5-bit field and the signed 3-bit field below it. -/
theorem etcModeSelection : Obligations.EtcModeSelection := by
  intro f w sum
  have hfields (low : Nat) :
      sumOverflows (bits w (low + 7) (low + 3)) (bits w (low + 2) low) = true ↔ sum low < 0 ∨ 31 < sum low := by
    rw [sumOverflows_iff, sext_three, bits_eq_div_mod (width := 5) w rfl, bits_eq_div_mod (width := 3) w rfl,
      ← Int.add_sub_assoc]
    rfl
  have hred : sumOverflows (bits w 63 59) (bits w 58 56) = true ↔ _ := hfields 56
  have hgreen : sumOverflows (bits w 55 51) (bits w 50 48) = true ↔ _ := hfields 48
  have hblue : sumOverflows (bits w 47 43) (bits w 42 40) = true ↔ _ := hfields 40
  simp only [etcMode_eq, hred, hgreen, hblue]

end Sys2Proof.Machine
end

section
/-! PROOF. O42: the punch-through alpha of ETC2_RGB_A1. A pixel is punched out, or it has the colour of its mode; that
colour depends on the format only through the punch-through rule, and so does the mode where the `opaque` bit is 1. -/

namespace Sys2Proof.Machine

/-! ## Punch-through (R154) -/

theorem punchThrough_iff (f : EtcFormat) (w : Word64) :
    punchThrough f w = true ↔ f = .rgbA1 ∧ w.getLsbD 33 = false := by
  simp [punchThrough, bit_eq_zero_iff]

/-- No format but ETC2_RGB_A1 takes the punch-through rules. -/
theorem punchThrough_of_ne {f : EtcFormat} (h : f ≠ .rgbA1) (w : Word64) : punchThrough f w = false :=
  Bool.eq_false_iff.mpr fun hthrough => h ((punchThrough_iff f w).mp hthrough).1

/-- No block whose `opaque` bit is 1 takes them. -/
theorem punchThrough_of_opaque {w : Word64} (h : w.getLsbD 33 = true) (f : EtcFormat) : punchThrough f w = false :=
  Bool.eq_false_iff.mpr fun hthrough => Bool.noConfusion (h.symm.trans ((punchThrough_iff f w).mp hthrough).2)

theorem punchedOut_iff (f : EtcFormat) (w : Word64) (x y : Nat) :
    punchedOut f w x y = true ↔ punchThrough f w = true ∧ etcMode f w ≠ .planar ∧ etcIndex w (4 * x + y) = 2 := by
  simp [punchedOut, and_assoc]

theorem etcPixel_of_punchedOut {f : EtcFormat} {b : List Byte} {x y : Nat}
    (h : punchedOut f (etcColourWord f b) x y = true) : etcPixel f b x y = transparentBlack :=
  if_pos h

theorem etcPixel_of_not_punchedOut {f : EtcFormat} {b : List Byte} {x y : Nat}
    (h : ¬ punchedOut f (etcColourWord f b) x y = true) :
    etcPixel f b x y =
      (etcColour f (etcColourWord f b) (etcMode f (etcColourWord f b)) x y).toPixel (etcAlpha f b x y) :=
  if_neg h

/-! ## What the colour and the mode take from the format (R142, R146) -/

/-- The colour depends on the format only through the punch-through rule. -/
theorem etcColour_congr {f g : EtcFormat} {w : Word64} (h : punchThrough f w = punchThrough g w)
    (m : EtcMode) (x y : Nat) : etcColour f w m x y = etcColour g w m x y := by
  have hmodifier (cw idx : Nat) : etcModifier f w cw idx = etcModifier g w cw idx := by rw [etcModifier, etcModifier, h]
  cases m with
  | individual => simp only [etcColour, hmodifier]
  | differential => simp only [etcColour, hmodifier]
  | t => rfl
  | h => rfl
  | planar => rfl

/-- The mode depends on the format only through the choice of the individual mode. -/
theorem etcMode_congr {f g : EtcFormat} {w : Word64}
    (h : f ≠ .rgbA1 ∧ w.getLsbD 33 = false ↔ g ≠ .rgbA1 ∧ w.getLsbD 33 = false) : etcMode f w = etcMode g w := by
  simp only [etcMode_eq, h]

/-- A word whose bit 33 is 1 is on the differential path in every format (R90). -/
theorem etcMode_of_bit33 {w : Word64} (h : w.getLsbD 33 = true) (f g : EtcFormat) : etcMode f w = etcMode g w :=
  etcMode_congr (by rw [h]; simp)

/-- Two formats with the same colour word, the same mode and the same alphas, neither of which takes the punch-through
rules, give the same pixels. -/
theorem etcPixel_congr {f g : EtcFormat} {b : List Byte} {x y : Nat} (hword : etcColourWord f b = etcColourWord g b)
    (hf : punchThrough f (etcColourWord f b) = false) (hg : punchThrough g (etcColourWord g b) = false)
    (hmode : etcMode f (etcColourWord f b) = etcMode g (etcColourWord g b))
    (halpha : etcAlpha f b x y = etcAlpha g b x y) : etcPixel f b x y = etcPixel g b x y := by
  rw [etcPixel_of_not_punchedOut (by simp [punchedOut_iff, hf]),
    etcPixel_of_not_punchedOut (by simp [punchedOut_iff, hg]), hmode, halpha, ← hword,
    etcColour_congr (hf.trans (hword ▸ hg.symm))]

/-! ## The differential mode with nothing added (R145, R154) -/

/-- A sum that does not overflow is a 5-bit field. -/
theorem differentialSum_lt {base delta : Nat} (h : ¬ sumOverflows base delta = true) :
    differentialSum base delta < 2 ^ 5 := by
  rw [sumOverflows_iff] at h
  unfold differentialSum
  omega

/-- In the differential mode no sum overflows (R142). -/
theorem not_sumOverflows_of_differential {f : EtcFormat} {w : Word64} (h : etcMode f w = .differential) :
    ¬ sumOverflows (bits w 63 59) (bits w 58 56) = true ∧ ¬ sumOverflows (bits w 55 51) (bits w 50 48) = true ∧
      ¬ sumOverflows (bits w 47 43) (bits w 42 40) = true := by
  rw [etcMode_eq] at h
  split_ifs at h with _ hr hg hb
  exact ⟨hr, hg, hb⟩

/-- Both base colours of a differential block are 5-bit fields replicated to 8 bits. -/
theorem differentialBase_fitsInBytes {f : EtcFormat} {w : Word64} (h : etcMode f w = .differential) (second : Bool) :
    (differentialBase w second).FitsInBytes := by
  cases second with
  | false =>
    exact ⟨rep5_le_of_lt (bits_lt_two_pow w 63 59), rep5_le_of_lt (bits_lt_two_pow w 55 51),
      rep5_le_of_lt (bits_lt_two_pow w 47 43)⟩
  | true =>
    obtain ⟨hr, hg, hb⟩ := not_sumOverflows_of_differential h
    exact ⟨rep5_le_of_lt (differentialSum_lt hr), rep5_le_of_lt (differentialSum_lt hg),
      rep5_le_of_lt (differentialSum_lt hb)⟩

theorem clamp255_add_zero {v : Nat} (h : v ≤ 255) : clamp255 ((v : Int) + 0) = v := by
  unfold clamp255
  omega

/-- A colour of bytes is its own clamp. -/
theorem Rgb.addClamp_zero {c : Rgb} (h : c.FitsInBytes) : c.addClamp 0 = c := by
  obtain ⟨hr, hg, hb⟩ := h
  simp only [Rgb.addClamp, Rgb.map, clamp255_add_zero hr, clamp255_add_zero hg, clamp255_add_zero hb]

/-! ## The two values of the `opaque` bit -/

section
variable {b : List Byte} {x y : Nat}

/-- A pixel of a planar block, or of another index than 2, has the colour of the block's mode and alpha 255 (R157). -/
theorem etcPixel_rgbA1_of_mode {m : EtcMode} (hm : etcMode .rgbA1 (etcColourWord .rgbA1 b) = m)
    (h : m = .planar ∨ etcIndex (etcColourWord .rgbA1 b) (4 * x + y) ≠ 2) :
    etcPixel .rgbA1 b x y = (etcColour .rgbA1 (etcColourWord .rgbA1 b) m x y).toPixel 255 := by
  subst hm
  refine etcPixel_of_not_punchedOut fun hout => ?_
  obtain ⟨-, hmode, hidx⟩ := (punchedOut_iff ..).mp hout
  exact h.elim hmode fun hne => hne hidx

/-- With `opaque = 1` a block of ETC2_RGB_A1 decodes as one of ETC2_RGB. -/
theorem etcPixel_rgbA1_of_opaque (h : (etcColourWord .rgbA1 b).getLsbD 33 = true) :
    etcPixel .rgbA1 b x y = etcPixel .rgb b x y :=
  etcPixel_congr rfl (punchThrough_of_opaque h _) (punchThrough_of_ne (by decide) _) (etcMode_of_bit33 h _ _) rfl

/-- The modifier of the punch-through form (R154). -/
theorem etcModifier_rgbA1_of_transparent {w : Word64} (h : w.getLsbD 33 = false) (cw idx : Nat) :
    etcModifier .rgbA1 w cw idx = if idx = 1 ∨ idx = 3 then etcMod cw idx else 0 :=
  if_pos ((punchThrough_iff .rgbA1 w).mpr ⟨rfl, h⟩)

end

/-- Settles O42: the opaque block as one of ETC2_RGB, then the transparent block mode by mode. -/
theorem etcPunchThroughAlpha : Obligations.EtcPunchThroughAlpha := by
  intro b x y _ _ w idx second
  refine ⟨fun hopaque => ⟨?opaqueColour, etcPixel_rgbA1_of_opaque hopaque⟩, fun htransparent => ?transparent⟩
  case opaqueColour =>
    have hthrough (f : EtcFormat) : punchThrough f w = false := punchThrough_of_opaque hopaque f
    rw [← etcColour_congr (f := .rgbA1) ((hthrough .rgbA1).trans (hthrough .rgb).symm)]
    exact etcPixel_of_not_punchedOut (by simp [punchedOut_iff, w, hthrough])
  case transparent =>
    have hthrough : punchThrough .rgbA1 w = true := (punchThrough_iff .rgbA1 w).mpr ⟨rfl, htransparent⟩
    refine ⟨fun hm => etcPixel_rgbA1_of_mode hm (.inl rfl), fun hm hidx => ?punched,
      fun hm hidx => etcPixel_rgbA1_of_mode hm (.inr hidx), fun hm hidx => etcPixel_rgbA1_of_mode hm (.inr hidx),
      fun hm hidx => ?indexZero, fun hm hidx => ?indexOdd⟩
    case punched => exact etcPixel_of_punchedOut ((punchedOut_iff ..).mpr ⟨hthrough, hm, hidx⟩)
    case indexZero =>
      have hne : idx ≠ 2 := by omega
      have hmodifier : etcModifier .rgbA1 w (tableSelector w second) idx = 0 := by
        rw [etcModifier_rgbA1_of_transparent htransparent, if_neg (by omega)]
      rw [etcPixel_rgbA1_of_mode hm (.inr hne), etcColour, hmodifier,
        Rgb.addClamp_zero (differentialBase_fitsInBytes hm second)]
    case indexOdd =>
      have hne : idx ≠ 2 := by omega
      have hmodifier : etcModifier .rgbA1 w (tableSelector w second) idx = etcMod (tableSelector w second) idx := by
        rw [etcModifier_rgbA1_of_transparent htransparent, if_pos hidx]
      rw [etcPixel_rgbA1_of_mode hm (.inr hne), etcColour, hmodifier]

end Sys2Proof.Machine
end

section
/-! PROOF. O40: ETC1 and ETC2_RGB. A command takes nothing from its format but the class, so two formats whose classes
have the same effects run the same DECODE and the same BLOCK. -/

namespace Sys2Proof.Machine

/-! ## Classes with the same effects (R220, R234) -/

/-- A DECODE of either class has the same effect: the same rejection, the same completion on an empty region, and the same
family procedure. -/
structure FormatClass.SameDecode (c d : FormatClass) : Prop where
  unknown : c = .unknown ↔ d = .unknown
  emptyRegion : emptyRegionCompletion c = emptyRegionCompletion d
  family : decodeFamily c = decodeFamily d

theorem FormatClass.SameDecode.refl (c : FormatClass) : c.SameDecode c := ⟨Iff.rfl, rfl, rfl⟩

/-- A BLOCK of either class uses the same latch bytes and computes the same tile. -/
structure FormatClass.SameBlock (c d : FormatClass) : Prop where
  latchBytes : c.latchBytes = d.latchBytes
  tile : blockTile c = blockTile d

/-- A code that is not known names no BLOCK datapath (R234). -/
theorem blockClassOf_unknown {p : Config.Params} {n : Nat} (hn : n < 2 ^ 32) (hk : n ∉ p.knownFormats) :
    blockClassOf p (BitVec.ofNat 64 n) = none := by
  simp [blockClassOf, bits_named hn, isKnown, hk]

/-- The outcome of the entry, with the class `d` in it. -/
def EntryOutcome.withClass (d : FormatClass) : EntryOutcome → EntryOutcome
  | .nullArguments => .nullArguments
  | .emptyRegion _ => .emptyRegion d
  | .run _ g r => .run d g r

/-- The region checks do not depend on the class. -/
theorem entryRegion_withClass (u : DecodeUnit) (c d : FormatClass) :
    entryRegion u d = (entryRegion u c).map (EntryOutcome.withClass d) := by
  rcases hg : readGeometry u with e | g
  · simp only [entryRegion_error _ hg, Except.map]
  · simp only [entryRegion_eq _ hg]
    rcases clip g with _ | r
    · rfl
    · dsimp only
      split <;> rfl

/-- The entry takes nothing from the format word but its class, and tests only whether that is unknown (R220). -/
theorem decodeEntry_withClass {p : Config.Params} {fmt fmt' : Word64}
    (h : classOf p fmt = .unknown ↔ classOf p fmt' = .unknown) (u : DecodeUnit) :
    decodeEntry p fmt' u = (decodeEntry p fmt u).map (EntryOutcome.withClass (classOf p fmt')) := by
  rcases hc : u.ctrl with _ | c
  · simp only [decodeEntry_ctrl_unset _ _ hc, Except.map]
  rcases ha : argumentsPresent c with _ | _
  · simp only [decodeEntry_null _ _ hc ha, Except.map, EntryOutcome.withClass]
  rcases hf : u.fmt with _ | f
  · simp only [decodeEntry_fmt_unset _ _ hc ha hf, Except.map]
  have hwritten : u.fmt.isSome = true := by simp [hf]
  by_cases hk : classOf p fmt = .unknown
  · simp only [decodeEntry_unknown _ _ hc ha hwritten hk, decodeEntry_unknown _ _ hc ha hwritten (h.mp hk), Except.map]
  · rw [decodeEntry_region _ _ hc ha hwritten hk, decodeEntry_region _ _ hc ha hwritten (mt h.mpr hk)]
    exact entryRegion_withClass _ _ _

/-- Two format words whose classes have the same effects run the same DECODE. -/
theorem decodeCommand_congr {fmt fmt' : Word64} {s : State}
    (h : (classOf s.params fmt).SameDecode (classOf s.params fmt')) : decodeCommand fmt s = decodeCommand fmt' s := by
  have hentry := decodeEntry_withClass h.unknown s.unit
  have hprocedure : decodeProcedure fmt s = decodeProcedure fmt' s := by
    rcases decodeEntry_cases s.params fmt s.unit with ⟨e, he, -⟩ | he | ⟨he, -⟩ | ⟨g, r, he, -, -⟩ <;>
      rw [he] at hentry
    · rw [decodeProcedure_error he, decodeProcedure_error hentry]
    · rw [decodeProcedure_null he, decodeProcedure_null hentry]
    · rw [decodeProcedure_empty he, decodeProcedure_empty hentry, h.emptyRegion]
    · rw [decodeProcedure_run he, decodeProcedure_run hentry, h.family]
  rw [decodeCommand, decodeCommand, hprocedure]

/-- Two format words that name no datapath, or datapaths with the same effects, run the same BLOCK. -/
theorem blockCommand_congr {fmt fmt' : Word64} {s : State}
    (h : Option.Rel FormatClass.SameBlock (blockClassOf s.params fmt) (blockClassOf s.params fmt')) :
    blockCommand fmt s = blockCommand fmt' s := by
  have hprocedure : blockProcedure fmt s = blockProcedure fmt' s := by
    unfold blockProcedure
    generalize blockClassOf s.params fmt = c at h
    generalize blockClassOf s.params fmt' = d at h
    cases h with
    | none => rfl
    | some hsame => simp only [hsame.latchBytes, hsame.tile]
  rw [blockCommand, blockCommand, hprocedure]

/-! ## ETC1 and ETC2_RGB (R158) -/

/-- Neither format takes the punch-through rules, and both select the individual mode by the `diff` bit. -/
theorem etcPixel_etc1_eq_rgb (b : List Byte) (x y : Nat) : etcPixel .etc1 b x y = etcPixel .rgb b x y :=
  etcPixel_congr rfl (punchThrough_of_ne (by decide) _) (punchThrough_of_ne (by decide) _) (etcMode_congr (by simp)) rfl

theorem etcTile_etc1_eq_rgb : etcTile .etc1 = etcTile .rgb := by
  funext b
  simp only [etcTile, etcPixel_etc1_eq_rgb]

theorem sameDecode_etc1_rgb : (FormatClass.etc .etc1).SameDecode (.etc .rgb) where
  unknown := by simp
  emptyRegion := rfl
  family := by
    funext g r s
    simp only [decodeFamily, etcTile_etc1_eq_rgb, EtcFormat.blockBytes]

theorem sameBlock_etc1_rgb : (FormatClass.etc .etc1).SameBlock (.etc .rgb) where
  latchBytes := rfl
  tile := etcTile_etc1_eq_rgb

section
variable {p : Config.Params} (h : 6 ∈ p.knownFormats ↔ 22 ∈ p.knownFormats)
include h

/-- The DECODE classes of the two codes: unknown, `Fallback` where ETC is not routed, or the two datapaths (R221, R230). -/
theorem classOf_etc1_sameDecode_rgb :
    (classOf p (BitVec.ofNat 64 6)).SameDecode (classOf p (BitVec.ofNat 64 22)) := by
  have hknown : isKnown p 22 = isKnown p 6 := by simp [isKnown, h]
  rw [classOf_named p (by decide), classOf_named p (by decide), hknown]
  by_cases hk : isKnown p 6 = false
  · rw [if_pos hk, if_pos hk]
    exact .refl _
  · rw [if_neg hk, if_neg hk]
    simp only [datapathOf]
    cases p.etcRouted with
    | false => exact .refl _
    | true => exact sameDecode_etc1_rgb

/-- The BLOCK datapaths of the two codes (R234). -/
theorem blockClassOf_etc1_sameBlock_rgb :
    Option.Rel FormatClass.SameBlock (blockClassOf p (BitVec.ofNat 64 6)) (blockClassOf p (BitVec.ofNat 64 22)) := by
  by_cases hk : 6 ∈ p.knownFormats
  · rw [blockClassOf_named (by decide) hk, blockClassOf_named (by decide) (h.mp hk)]
    exact .some sameBlock_etc1_rgb
  · rw [blockClassOf_unknown (by decide) hk, blockClassOf_unknown (by decide) (mt h.mpr hk)]
    exact .none

end

/-- Settles O40: the pixels of every block, and with them the classes that the two codes name. -/
theorem etcOneIsEtcTwoRgb : Obligations.EtcOneIsEtcTwoRgb :=
  ⟨etcPixel_etc1_eq_rgb, fun _ hknown =>
    ⟨decodeCommand_congr (classOf_etc1_sameDecode_rgb hknown),
      blockCommand_congr (blockClassOf_etc1_sameBlock_rgb hknown)⟩⟩

end Sys2Proof.Machine
end

section
/-! PROOF. O49, O47 and O48: the PVRTC datapath. An upscaled channel is a weighted mean of four words' channels, and a
blended one of two; a mean of one value is that value, and a mean of bounded values is bounded. -/

namespace Sys2Proof.Machine

/-! ## The endpoint colours (R181, R182) -/

/-- A masked field moved down to bit 0 has the bits that the mask leaves it. -/
theorem and_shiftRight_lt {c mask k n : Nat} (h : mask < 2 ^ (n + k)) : (c &&& mask) >>> k < 2 ^ n := by
  rw [Nat.shiftRight_eq_div_pow]
  refine Nat.div_lt_of_lt_mul ?_
  rw [← Nat.pow_add, Nat.add_comm]
  exact Nat.and_le_right.trans_lt h

/-- A masked field moved up has the bits that the mask leaves it and those below. -/
theorem and_shiftLeft_lt {c mask k n : Nat} (h : mask < 2 ^ n) : (c &&& mask) <<< k < 2 ^ (n + k) := by
  rw [Nat.shiftLeft_eq, Nat.pow_add]
  exact Nat.mul_lt_mul_of_pos_right (Nat.and_le_right.trans_lt h) (Nat.two_pow_pos k)

/-- Each channel of the colour has 5 bits, and its alpha 4. -/
def WordColour.FitsInFields (c : WordColour) : Prop := c.r < 32 ∧ c.g < 32 ∧ c.b < 32 ∧ c.a < 16

theorem colourA_fitsInFields (col : Word32) : (colourA col).FitsInFields := by
  unfold colourA
  split
  · exact ⟨bits_lt_two_pow col 14 10, bits_lt_two_pow col 9 5,
      Nat.or_lt_two_pow (n := 5) (Nat.and_le_right.trans_lt (by decide)) (and_shiftRight_lt (by decide)),
      Nat.lt_succ_self 15⟩
  · exact ⟨Nat.or_lt_two_pow (n := 5) (and_shiftRight_lt (by decide)) (and_shiftRight_lt (by decide)),
      Nat.or_lt_two_pow (n := 5) (and_shiftRight_lt (by decide)) (and_shiftRight_lt (by decide)),
      Nat.or_lt_two_pow (n := 5) (and_shiftLeft_lt (n := 4) (by decide)) (and_shiftRight_lt (by decide)),
      and_shiftRight_lt (n := 4) (by decide)⟩

theorem colourB_fitsInFields (col : Word32) : (colourB col).FitsInFields := by
  unfold colourB
  split
  · exact ⟨bits_lt_two_pow col 30 26, bits_lt_two_pow col 25 21, bits_lt_two_pow col 20 16, Nat.lt_succ_self 15⟩
  · exact ⟨Nat.or_lt_two_pow (n := 5) (and_shiftRight_lt (by decide)) (and_shiftRight_lt (by decide)),
      Nat.or_lt_two_pow (n := 5) (and_shiftRight_lt (by decide)) (and_shiftRight_lt (by decide)),
      Nat.or_lt_two_pow (n := 5) (and_shiftRight_lt (by decide)) (and_shiftRight_lt (by decide)),
      and_shiftRight_lt (n := 4) (by decide)⟩

/-! ## The upscaled endpoints (R185) -/

/-- The weights of the bilinear blend sum to `4 · WW`. -/
theorem bilinear_same {ww tx ty : Nat} (hx : tx < ww) (hy : ty < 4) (c : Nat) :
    bilinear ww c c c c tx ty = 4 * ww * c := by
  have hww : ww - tx + tx = ww := by omega
  have hfour : 4 - ty + ty = 4 := by omega
  calc bilinear ww c c c c tx ty = (ww - tx + tx) * (4 - ty + ty) * c := by rw [bilinear]; ring
    _ = 4 * ww * c := by rw [hww, hfour]; ring

theorem bilinear_le {ww p q r s tx ty n : Nat} (hx : tx < ww) (hy : ty < 4) (hp : p ≤ n) (hq : q ≤ n) (hr : r ≤ n)
    (hs : s ≤ n) : bilinear ww p q r s tx ty ≤ 4 * ww * n := by
  rw [← bilinear_same hx hy, bilinear, bilinear]
  gcongr

/-- The final step widens a 5-bit channel to 8 bits by replication (R10, R185). -/
theorem widenColour_mul {ww : Nat} (hww : ww = 4 ∨ ww = 8) (c : Nat) : widenColour ww (4 * ww * c) = 8 * c + c / 4 := by
  rcases hww with rfl | rfl
  · rw [widenColour, if_neg (by decide)]
    simp only [Nat.shiftRight_eq_div_pow]
    omega
  · rw [widenColour, if_pos rfl]
    simp only [Nat.shiftRight_eq_div_pow]
    omega

/-- The final step widens a 4-bit alpha to 8 bits by replication (R10, R185). -/
theorem widenAlpha_mul {ww : Nat} (hww : ww = 4 ∨ ww = 8) (c : Nat) : widenAlpha ww (4 * ww * c) = 17 * c := by
  rcases hww with rfl | rfl
  · rw [widenAlpha, if_neg (by decide)]
    simp only [Nat.shiftRight_eq_div_pow]
    omega
  · rw [widenAlpha, if_pos rfl]
    simp only [Nat.shiftRight_eq_div_pow]
    omega

theorem widenColour_mono {ww v v' : Nat} (h : v ≤ v') : widenColour ww v ≤ widenColour ww v' := by
  simp only [widenColour, Nat.shiftRight_eq_div_pow]
  split <;> gcongr

theorem widenAlpha_mono {ww v v' : Nat} (h : v ≤ v') : widenAlpha ww v ≤ widenAlpha ww v' := by
  simp only [widenAlpha, Nat.shiftRight_eq_div_pow]
  split <;> gcongr

/-- The colour widened to 8 bits a channel by replication (R10). -/
def WordColour.widened (c : WordColour) : WordColour where
  r := 8 * c.r + c.r / 4
  g := 8 * c.g + c.g / 4
  b := 8 * c.b + c.b / 4
  a := 17 * c.a

/-- Each channel of the colour, and its alpha, fits in a byte. -/
def WordColour.FitsInBytes (c : WordColour) : Prop := c.r ≤ 255 ∧ c.g ≤ 255 ∧ c.b ≤ 255 ∧ c.a ≤ 255

section
variable {ww tx ty : Nat} (hww : ww = 4 ∨ ww = 8) (hx : tx < ww) (hy : ty < 4)
include hww hx hy

/-- A quad of one colour keeps it, widened. -/
theorem upscale_same (c : WordColour) : upscale ww c c c c tx ty = c.widened := by
  simp only [upscale, bilinear_same hx hy, widenColour_mul hww, widenAlpha_mul hww, WordColour.widened]

/-- The largest 5-bit channel widens to 255, and so no other goes beyond. -/
theorem upscaledChannel_le {p q r s : Nat} (hp : p < 32) (hq : q < 32) (hr : r < 32) (hs : s < 32) :
    widenColour ww (bilinear ww p q r s tx ty) ≤ 255 := calc
  _ ≤ widenColour ww (4 * ww * 31) := widenColour_mono (bilinear_le hx hy (by omega) (by omega) (by omega) (by omega))
  _ = 255 := widenColour_mul hww 31

theorem upscaledAlpha_le {p q r s : Nat} (hp : p < 16) (hq : q < 16) (hr : r < 16) (hs : s < 16) :
    widenAlpha ww (bilinear ww p q r s tx ty) ≤ 255 := calc
  _ ≤ widenAlpha ww (4 * ww * 15) := widenAlpha_mono (bilinear_le hx hy (by omega) (by omega) (by omega) (by omega))
  _ = 255 := widenAlpha_mul hww 15

theorem upscale_fitsInBytes {p q r s : WordColour} (hp : p.FitsInFields) (hq : q.FitsInFields) (hr : r.FitsInFields)
    (hs : s.FitsInFields) : (upscale ww p q r s tx ty).FitsInBytes := by
  obtain ⟨hpr, hpg, hpb, hpa⟩ := hp
  obtain ⟨hqr, hqg, hqb, hqa⟩ := hq
  obtain ⟨hrr, hrg, hrb, hra⟩ := hr
  obtain ⟨hsr, hsg, hsb, hsa⟩ := hs
  exact ⟨upscaledChannel_le hww hx hy hpr hqr hrr hsr, upscaledChannel_le hww hx hy hpg hqg hrg hsg,
    upscaledChannel_le hww hx hy hpb hqb hrb hsb, upscaledAlpha_le hww hx hy hpa hqa hra hsa⟩

end

/-! ## The blend (R189) -/

/-- A blended channel is a weighted mean of the two, truncated. -/
theorem blendChannel_between {m : Nat} (hm : m ≤ 8) (a b : Nat) : Between a b (blendChannel a b m) := by
  have hmean : blendChannel a b m = ((8 - m) * a + m * b) / 8 := by
    rw [blendChannel, Nat.shiftRight_eq_div_pow, Nat.mul_comm a, Nat.mul_comm b]
  rw [hmean]
  exact between_weightedMean a b (by omega) (by decide)

theorem blendChannel_same {m : Nat} (hm : m ≤ 8) (c : Nat) : blendChannel c c m = c := by
  obtain ⟨hle, hge⟩ := blendChannel_between hm c c
  omega

theorem blendChannel_le {a b m n : Nat} (ha : a ≤ n) (hb : b ≤ n) (hm : m ≤ 8) : blendChannel a b m ≤ n :=
  (blendChannel_between hm a b).2.trans (Nat.max_le.mpr ⟨ha, hb⟩)

/-- Settles O49: the fields of the endpoint colours, the widened weighted mean, and the blend. -/
theorem pvrtcValuesFitInBytes : Obligations.PvrtcValuesFitInBytes := by
  refine ⟨fun col => ?fields, fun ww p q r s tx ty hww hx hy hfields => ?upscaled,
    fun a b m ha hb hm => blendChannel_le ha hb hm⟩
  case fields =>
    obtain ⟨hr, hg, hb, ha⟩ := colourA_fitsInFields col
    exact ⟨hr, hg, hb, ha, colourB_fitsInFields col⟩
  case upscaled =>
    exact upscale_fitsInBytes hww hx hy (hfields p (by simp)) (hfields q (by simp)) (hfields r (by simp))
      (hfields s (by simp))

/-! ## The modulation weights (R187, R188) -/

theorem repWeight_le (v : Nat) : repWeight v ≤ 8 := by
  match v with
  | 0 | 1 | 2 | 3 => decide
  | _ + 4 => simp [repWeight]

theorem weight2bpp_le (q : Quad) (gx gy : Nat) : weight2bpp q gx gy ≤ 8 := repWeight_le _

/-- A 2bpp weight is one of the table's, or a rounded mean of two or four of them. -/
theorem getMod_eight_le (q : Quad) (gx gy : Nat) : getMod 8 q gx gy ≤ 8 := by
  have hn := weight2bpp_le q gx (gy - 1)
  have hs := weight2bpp_le q gx (gy + 1)
  have hw := weight2bpp_le q (gx - 1) gy
  have he := weight2bpp_le q (gx + 1) gy
  have hown := weight2bpp_le q gx gy
  simp only [getMod]
  split
  · omega
  split
  · exact hown
  split <;> omega

/-- The weights of the two 4bpp tables: that with the 14 belongs to the words with `MFLAG = 1`. -/
theorem modValue4bpp_mem (w : PvrtcWord) (x y : Nat) :
    (w.flag = 1 ∧ modValue4bpp w x y ∈ [0, 4, 14, 8]) ∨ modValue4bpp w x y ∈ [0, 3, 5, 8] := by
  have hcode : bits w.mod (2 * (4 * y + x) + 1) (2 * (4 * y + x)) < 4 := by
    rw [bits_field (w := 2) _ rfl]
    exact Nat.mod_lt _ (by decide)
  simp only [modValue4bpp]
  generalize bits w.mod (2 * (4 * y + x) + 1) (2 * (4 * y + x)) = code at hcode
  split
  · next hflag => exact .inl ⟨hflag, by interval_cases code <;> decide⟩
  · exact .inr (by interval_cases code <;> decide)

theorem getMod_four (q : Quad) (gx gy : Nat) :
    getMod 4 q gx gy = modValue4bpp (gridWord 4 q gx gy) (gx % 4) (gy % 4) := rfl

/-- Settles O48: the weights of the two widths by their tables. -/
theorem modulationWeights : Obligations.ModulationWeights := by
  intro q gx gy
  have hweight := modValue4bpp_mem (gridWord 4 q gx gy) (gx % 4) (gy % 4)
  rw [← getMod_four] at hweight
  refine ⟨getMod_eight_le q gx gy, ?table, fun hpunch => ?flag⟩
  case table =>
    simp only [List.mem_cons, List.not_mem_nil, or_false] at hweight ⊢
    omega
  case flag =>
    rcases hweight with ⟨hflag, -⟩ | hplain
    · rwa [PvrtcWord.flag, bit_eq, Bool.toNat_eq_one] at hflag
    · rw [hpunch] at hplain
      exact absurd hplain (by decide)

/-! ## A quad of one colour -/

/-- A weight stands for itself where it is at most 8, and 14 for punch-through with the weight 4 (R187, R188). -/
theorem getMod_le_or_punch {ww : Nat} (hww : ww = 4 ∨ ww = 8) (q : Quad) (gx gy : Nat) :
    getMod ww q gx gy ≤ 8 ∨ getMod ww q gx gy = 14 := by
  obtain ⟨height, hfour, -⟩ := modulationWeights q gx gy
  rcases hww with rfl | rfl
  · simp only [List.mem_cons, List.not_mem_nil, or_false] at hfour
    omega
  · exact .inl height

/-- The blend of a colour with itself is the colour, but for the alpha of a punched-through pixel (R189). -/
theorem blend_same (c : WordColour) {m : Nat} (hm : m ≤ 8 ∨ m = 14) :
    blend c c m = { r := BitVec.ofNat 8 c.r, g := BitVec.ofNat 8 c.g, b := BitVec.ofNat 8 c.b
                    a := if m = 14 then 0 else BitVec.ofNat 8 c.a } := by
  rcases hm with hm | rfl
  · have hplain : ¬ 10 < m := by omega
    have hne : m ≠ 14 := by omega
    simp [blend, hplain, hne, blendChannel_same hm]
  · simp [blend, blendChannel_same]

/-- Settles O47: both upscaled endpoints are the widened colour, and so is their blend. -/
theorem uniformQuadKeepsColour : Obligations.UniformQuadKeepsColour := by
  refine ⟨fun ww c tx ty hww hx hy _ _ _ => upscale_same hww hx hy c, fun ww q c tx ty hww hx hy hc => ?_⟩
  obtain ⟨hpA, hpB⟩ := hc q.p (by simp)
  obtain ⟨hqA, hqB⟩ := hc q.q (by simp)
  obtain ⟨hrA, hrB⟩ := hc q.r (by simp)
  obtain ⟨hsA, hsB⟩ := hc q.s (by simp)
  rw [quadPixel, hpA, hqA, hrA, hsA, hpB, hqB, hrB, hsB, upscale_same hww hx hy,
    blend_same _ (getMod_le_or_punch hww q _ _)]
  rfl

end Sys2Proof.Machine
end

section
/-! PROOF. O35 and O39: the PVRTC commands by their classes. A BLOCK with its latch written completes for every format with
a datapath (O33), and the two formats of one width have the same effects in both commands. -/

namespace Sys2Proof.Machine

/-- Each PVRTC BLOCK is the BLOCK of a code whose datapath is its format's (R72, R234). -/
theorem pvrtcBlocks_spec {p : Instr × PvrtcFormat × Nat} (hp : p ∈ pvrtcBlocks) :
    p.2.2 < 2 ^ 32 ∧ datapathOf p.2.2 = some (.pvrtc p.2.1) ∧
      ∀ s, exec p.1 s = blockCommand (BitVec.ofNat 64 p.2.2) s := by
  simp only [pvrtcBlocks, List.mem_cons, List.not_mem_nil, or_false] at hp
  rcases hp with rfl | rfl | rfl | rfl
  · exact ⟨by decide, rfl, fun _ => rfl⟩
  · exact ⟨by decide, rfl, fun _ => rfl⟩
  · exact ⟨by decide, rfl, fun _ => rfl⟩
  · exact ⟨by decide, rfl, fun _ => rfl⟩

/-- Settles O35: each PVRTC BLOCK completes with the tile of its quad, whose entries are the pixels row by row. -/
theorem pvrtcBlockWritesLatch : Obligations.PvrtcBlockWritesLatch := by
  intro p hp s bytes hf hk hl
  obtain ⟨hcode, hdatapath, hexec⟩ := pvrtcBlocks_spec hp
  have hclass : blockClassOf s.params (BitVec.ofNat 64 p.2.2) = some (.pvrtc p.2.1) :=
    (blockClassOf_named hcode hk).trans hdatapath
  exact ⟨_, (hexec s).trans (blockCommand_of_latchHolds hf hclass hl), blkOutAfter_map_range_get _ _ _⟩

/-! ## Formats of one width (R180) -/

/-- A PVRTC DECODE takes nothing from its format but the width of a word. -/
theorem sameDecode_pvrtc {f f' : PvrtcFormat} (h : f.wordWidth = f'.wordWidth) :
    (FormatClass.pvrtc f).SameDecode (.pvrtc f') where
  unknown := by simp
  emptyRegion := rfl
  family := by
    funext g r s
    simp only [decodeFamily, decodePvrtc, decodeCached, decodeImage, h]

theorem sameBlock_pvrtc {f f' : PvrtcFormat} (h : f.wordWidth = f'.wordWidth) :
    (FormatClass.pvrtc f).SameBlock (.pvrtc f') where
  latchBytes := rfl
  tile := by
    funext b
    simp only [blockTile, h]

section
variable {p : Config.Params} {n n' : Nat} {f f' : PvrtcFormat} (hn : n < 2 ^ 32) (hn' : n' < 2 ^ 32)
  (hknown : n ∈ p.knownFormats ↔ n' ∈ p.knownFormats) (hd : datapathOf n = some (.pvrtc f))
  (hd' : datapathOf n' = some (.pvrtc f')) (hwidth : f.wordWidth = f'.wordWidth)
include hn hn' hknown hd hd' hwidth

/-- The DECODE classes of two codes of one width: unknown both, or the two datapaths (R221). -/
theorem classOf_sameDecode_of_width :
    (classOf p (BitVec.ofNat 64 n)).SameDecode (classOf p (BitVec.ofNat 64 n')) := by
  have hsame : isKnown p n' = isKnown p n := by simp [isKnown, hknown]
  rw [classOf_named p hn, classOf_named p hn', hsame, hd, hd']
  split
  · exact .refl _
  · exact sameDecode_pvrtc hwidth

/-- The BLOCK datapaths of two codes of one width (R234). -/
theorem blockClassOf_sameBlock_of_width :
    Option.Rel FormatClass.SameBlock (blockClassOf p (BitVec.ofNat 64 n)) (blockClassOf p (BitVec.ofNat 64 n')) := by
  by_cases hk : n ∈ p.knownFormats
  · rw [blockClassOf_named hn hk, blockClassOf_named hn' (hknown.mp hk), hd, hd']
    exact .some (sameBlock_pvrtc hwidth)
  · rw [blockClassOf_unknown hn hk, blockClassOf_unknown hn' (mt hknown.mpr hk)]
    exact .none

end

/-- Settles O39: the classes that the two codes of each width name. -/
theorem pvrtcAlphaTagChangesNothing : Obligations.PvrtcAlphaTagChangesNothing := by
  intro s
  refine ⟨fun hknown => ⟨?decodeTwo, ?blockTwo⟩, fun hknown => ⟨?decodeFour, ?blockFour⟩⟩
  case decodeTwo =>
    exact decodeCommand_congr (classOf_sameDecode_of_width (by decide) (by decide) hknown.symm rfl rfl rfl)
  case blockTwo =>
    exact blockCommand_congr (blockClassOf_sameBlock_of_width (by decide) (by decide) hknown.symm rfl rfl rfl)
  case decodeFour =>
    exact decodeCommand_congr (classOf_sameDecode_of_width (by decide) (by decide) hknown.symm rfl rfl rfl)
  case blockFour =>
    exact blockCommand_congr (blockClassOf_sameBlock_of_width (by decide) (by decide) hknown.symm rfl rfl rfl)

end Sys2Proof.Machine
end

section
/-! PROOF. O50: the twiddled word address. The loop of R195 interleaves the low bits of the two coordinates, and what is left
of the longer one goes above them; so the coordinates can be read back. `PVRTC_NEED` of a power-of-two grid then follows by
counting: the words take `numX · numY` distinct places, none of which lies at or above `numX · numY`. -/

namespace Sys2Proof.Machine

/-! ## Interleaved bits -/

/-- The `k` low bits of `y` and of `x` in turn, those of `y` at the even positions. -/
def interleave (x y : Nat) : Nat → Nat
  | 0 => 0
  | k + 1 => interleave x y k + 4 ^ k * (y / 2 ^ k % 2 + 2 * (x / 2 ^ k % 2))

theorem interleave_lt (x y k : Nat) : interleave x y k < 4 ^ k := by
  induction k with
  | zero => exact Nat.one_pos
  | succ k ih =>
    have hpair : y / 2 ^ k % 2 + 2 * (x / 2 ^ k % 2) ≤ 3 := by omega
    calc interleave x y (k + 1) < 4 ^ k + 4 ^ k * 3 := Nat.add_lt_add_of_lt_of_le ih (Nat.mul_le_mul_left _ hpair)
      _ = 4 ^ (k + 1) := by ring

/-- A number below `n` and a multiple of `n` added to it can be read back. -/
theorem add_mul_inj {n a b c d : Nat} (ha : a < n) (hb : b < n) (h : a + n * c = b + n * d) : a = b ∧ c = d := by
  have hmod : a = b := by
    rw [← Nat.mod_eq_of_lt ha, ← Nat.mod_eq_of_lt hb, ← Nat.add_mul_mod_self_left a n c, h, Nat.add_mul_mod_self_left]
  subst hmod
  exact ⟨rfl, Nat.eq_of_mul_eq_mul_left (by omega) (Nat.add_left_cancel h)⟩

/-- The interleaved bits are those of the two numbers. -/
theorem interleave_inj {x y x' y' k : Nat} (h : interleave x y k = interleave x' y' k) :
    x % 2 ^ k = x' % 2 ^ k ∧ y % 2 ^ k = y' % 2 ^ k := by
  induction k with
  | zero => simp [Nat.mod_one]
  | succ k ih =>
    obtain ⟨hlow, hpair⟩ := add_mul_inj (interleave_lt x y k) (interleave_lt x' y' k) h
    obtain ⟨hx, hy⟩ := ih hlow
    have hxbit : x / 2 ^ k % 2 = x' / 2 ^ k % 2 := by omega
    have hybit : y / 2 ^ k % 2 = y' / 2 ^ k % 2 := by omega
    simp only [Nat.mod_pow_succ, hx, hy, hxbit, hybit, and_self]

/-! ## The loop of R195 -/

/-- The rounds that the loop takes for a grid of shorter side `minDim`, from round `k` on. -/
def twiddleRounds (minDim : Nat) : Nat → Nat → Nat
  | 0, k => k
  | fuel + 1, k => if 2 ^ k < minDim then twiddleRounds minDim fuel (k + 1) else k

/-- The rounds reach every bit of a number below `minDim`. -/
theorem le_two_pow_twiddleRounds {minDim fuel k : Nat} (h : minDim ≤ fuel + 2 ^ k) :
    minDim ≤ 2 ^ twiddleRounds minDim fuel k := by
  induction fuel generalizing k with
  | zero => simpa [twiddleRounds] using h
  | succ fuel ih =>
    rw [twiddleRounds]
    split
    · refine ih ?_
      have hpos : 0 < 2 ^ k := Nat.two_pow_pos k
      rw [Nat.pow_succ]
      omega
    · omega

/-- For a shorter side `2 ^ m` the loop stops after `m` rounds. -/
theorem twiddleRounds_le {m fuel k : Nat} (h : k ≤ m) : twiddleRounds (2 ^ m) fuel k ≤ m := by
  induction fuel generalizing k with
  | zero => exact h
  | succ fuel ih =>
    rw [twiddleRounds]
    split
    · next hlt => exact ih ((Nat.pow_lt_pow_iff_right (by decide)).mp hlt)
    · exact h

/-- A bit mask selects the bit. -/
theorem and_two_pow_ne_zero_iff (v k : Nat) : v &&& 2 ^ k ≠ 0 ↔ v / 2 ^ k % 2 = 1 := by
  rw [Nat.and_two_pow, Nat.testBit_eq_decide_div_mod_eq]
  by_cases h : v / 2 ^ k % 2 = 1 <;> simp [h]

/-- A bit set above a number is added to it. -/
theorem or_two_pow_eq_add {v n : Nat} (h : v < 2 ^ n) : v ||| 2 ^ n = v + 2 ^ n := by
  rw [Nat.or_comm, Nat.add_comm, ← Nat.mul_one (2 ^ n), Nat.two_pow_add_eq_or_of_lt h]

/-- A round of the loop appends the next bits of the two coordinates. -/
theorem twiddleRound_eq (x y k : Nat) :
    (let tw := if y &&& 2 ^ k ≠ 0 then interleave x y k ||| 4 ^ k else interleave x y k
     if x &&& 2 ^ k ≠ 0 then tw ||| 4 ^ k <<< 1 else tw) = interleave x y (k + 1) := by
  have hfour : (4 : Nat) ^ k = 2 ^ (2 * k) := by rw [Nat.pow_mul]
  have hlt : interleave x y k < 2 ^ (2 * k) := hfour ▸ interleave_lt x y k
  have hshift : 2 ^ (2 * k) <<< 1 = 2 ^ (2 * k + 1) :=
    (Nat.shiftLeft_eq ..).trans (Nat.pow_succ ..).symm
  have hdouble : 2 ^ (2 * k + 1) = 2 * 2 ^ (2 * k) := Nat.pow_succ'
  simp only [and_two_pow_ne_zero_iff, interleave, hfour, hshift, or_two_pow_eq_add hlt]
  rcases Nat.mod_two_eq_zero_or_one (y / 2 ^ k) with hy | hy <;>
    rcases Nat.mod_two_eq_zero_or_one (x / 2 ^ k) with hx | hx <;>
      simp only [hx, hy, reduceIte, Nat.zero_ne_one]
  · simp
  · rw [or_two_pow_eq_add (by omega)]
    omega
  · simp
  · rw [or_two_pow_eq_add (by omega)]
    omega

/-- The loop interleaves as many bits as it has rounds. -/
theorem twiddleLoop_eq (fuel minDim x y k : Nat) :
    twiddleLoop fuel minDim x y (interleave x y k) (2 ^ k) (4 ^ k) k =
      (interleave x y (twiddleRounds minDim fuel k), twiddleRounds minDim fuel k) := by
  induction fuel generalizing k with
  | zero => rfl
  | succ fuel ih =>
    rw [twiddleLoop, twiddleRounds]
    split
    · have hs : 2 ^ k <<< 1 = 2 ^ (k + 1) := (Nat.shiftLeft_eq ..).trans (Nat.pow_succ ..).symm
      have hd : 4 ^ k <<< 2 = 4 ^ (k + 1) := (Nat.shiftLeft_eq ..).trans (Nat.pow_succ ..).symm
      simp only [twiddleRound_eq, hs, hd]
      exact ih (k + 1)
    · rfl

/-! ## The address (R195) -/

/-- The bits of each coordinate that the address of an `nx` by `ny` grid interleaves. -/
def twiddleBits (nx ny : Nat) : Nat := twiddleRounds (min nx ny) (min nx ny) 0

/-- The coordinate along the longer side of the grid. -/
def longCoordinate (nx ny x y : Nat) : Nat := if ny < nx then x else y

theorem min_le_two_pow_twiddleBits (nx ny : Nat) : min nx ny ≤ 2 ^ twiddleBits nx ny :=
  le_two_pow_twiddleRounds (Nat.le_add_right _ _)

theorem twiddle_eq (nx ny x y : Nat) :
    twiddle nx ny x y = interleave x y (twiddleBits nx ny) +
      4 ^ twiddleBits nx ny * (longCoordinate nx ny x y / 2 ^ twiddleBits nx ny) := by
  have hmin : (if ny < nx then ny else nx) = min nx ny := by split <;> omega
  have hloop : twiddleLoop (min nx ny) (min nx ny) x y 0 1 1 0 = _ := twiddleLoop_eq (min nx ny) (min nx ny) x y 0
  have hlt : interleave x y (twiddleBits nx ny) < 2 ^ (2 * twiddleBits nx ny) := by
    rw [Nat.pow_mul]
    exact interleave_lt x y _
  simp only [twiddle, hmin, hloop]
  rw [← longCoordinate, ← twiddleBits, Nat.or_comm, Nat.shiftLeft_eq, Nat.mul_comm, ← Nat.two_pow_add_eq_or_of_lt hlt,
    Nat.shiftRight_eq_div_pow, Nat.pow_mul, Nat.add_comm]

/-- R195: distinct words of a grid have distinct addresses. -/
theorem twiddle_inj {nx ny x y x' y' : Nat} (hx : x < nx) (hy : y < ny) (hx' : x' < nx) (hy' : y' < ny)
    (h : twiddle nx ny x y = twiddle nx ny x' y') : x = x' ∧ y = y' := by
  rw [twiddle_eq, twiddle_eq] at h
  obtain ⟨hlow, hhigh⟩ := add_mul_inj (interleave_lt ..) (interleave_lt ..) h
  obtain ⟨hxlow, hylow⟩ := interleave_inj hlow
  have hmin := min_le_two_pow_twiddleBits nx ny
  have hfromHalves {v v' : Nat} (hl : v % 2 ^ twiddleBits nx ny = v' % 2 ^ twiddleBits nx ny)
      (hh : v / 2 ^ twiddleBits nx ny = v' / 2 ^ twiddleBits nx ny) : v = v' := by
    rw [← Nat.div_add_mod v (2 ^ twiddleBits nx ny), hl, hh, Nat.div_add_mod]
  rw [longCoordinate, longCoordinate] at hhigh
  split at hhigh
  · exact ⟨hfromHalves hxlow hhigh, by rwa [Nat.mod_eq_of_lt (by omega), Nat.mod_eq_of_lt (by omega)] at hylow⟩
  · exact ⟨by rwa [Nat.mod_eq_of_lt (by omega), Nat.mod_eq_of_lt (by omega)] at hxlow, hfromHalves hylow hhigh⟩

/-! ## `PVRTC_NEED` (R208) -/

theorem twiddleBits_two_pow (a b : Nat) : twiddleBits (2 ^ a) (2 ^ b) = min a b := by
  have hmin : min (2 ^ a) (2 ^ b) = 2 ^ min a b := ((pow_right_mono₀ (by decide : 1 ≤ 2)).map_min).symm
  refine Nat.le_antisymm ?_ ?_
  · rw [twiddleBits, hmin]
    exact twiddleRounds_le (Nat.zero_le _)
  · have hle := min_le_two_pow_twiddleBits (2 ^ a) (2 ^ b)
    rw [hmin] at hle
    exact (Nat.pow_le_pow_iff_right (by decide)).mp hle

/-- The addresses of a power-of-two grid do not go beyond its number of words. -/
theorem twiddle_lt_two_pow {a b x y : Nat} (hx : x < 2 ^ a) (hy : y < 2 ^ b) :
    twiddle (2 ^ a) (2 ^ b) x y < 2 ^ a * 2 ^ b := by
  have hlong : longCoordinate (2 ^ a) (2 ^ b) x y < 2 ^ (min a b + (max a b - min a b)) := by
    rw [Nat.add_sub_cancel' min_le_max, longCoordinate]
    split
    · exact hx.trans_le (Nat.pow_le_pow_right (by decide) (le_max_left a b))
    · exact hy.trans_le (Nat.pow_le_pow_right (by decide) (le_max_right a b))
  have hquot : longCoordinate (2 ^ a) (2 ^ b) x y / 2 ^ min a b + 1 ≤ 2 ^ (max a b - min a b) := by
    refine Nat.div_lt_of_lt_mul ?_
    rwa [← Nat.pow_add]
  rw [twiddle_eq, twiddleBits_two_pow]
  calc interleave x y (min a b) + 4 ^ min a b * (longCoordinate (2 ^ a) (2 ^ b) x y / 2 ^ min a b)
      < 4 ^ min a b + 4 ^ min a b * (longCoordinate (2 ^ a) (2 ^ b) x y / 2 ^ min a b) :=
        Nat.add_lt_add_right (interleave_lt ..) _
    _ = 4 ^ min a b * (longCoordinate (2 ^ a) (2 ^ b) x y / 2 ^ min a b + 1) := by ring
    _ ≤ 4 ^ min a b * 2 ^ (max a b - min a b) := Nat.mul_le_mul_left _ hquot
    _ = 2 ^ (2 * min a b + (max a b - min a b)) := by rw [Nat.pow_add, Nat.pow_mul]
    _ = 2 ^ a * 2 ^ b := by rw [← Nat.pow_add]; congr 1; omega

/-- `PVRTC_NEED` is no more than the end of the last word. -/
theorem pvrtcNeed_le {nx ny n : Nat} (hn : 0 < n) (h : ∀ x y, x < nx → y < ny → twiddle nx ny x y < n) :
    pvrtcNeed nx ny ≤ 8 * n := by
  have hmax : (raster 0 0 nx ny).foldl (fun m p => max m (twiddle nx ny p.1 p.2)) 0 < n :=
    List.foldlRecOn (motive := fun m => m < n) _ _ hn fun m hm p hp => by
      rw [mem_raster] at hp
      exact max_lt hm (h p.1 p.2 (by omega) (by omega))
  rw [pvrtcNeed, Config.pvrtcWordBytes]
  omega

/-- The words of a grid are as many distinct places below `PVRTC_NEED`. -/
theorem le_pvrtcNeed (nx ny : Nat) : 8 * (nx * ny) ≤ pvrtcNeed nx ny := by
  have hcard : (Finset.range nx ×ˢ Finset.range ny).card ≤ (Finset.range (pvrtcNeed nx ny / 8)).card := by
    refine Finset.card_le_card_of_injOn (fun p => twiddle nx ny p.1 p.2) (fun p hp => ?_) fun p hp q hq hpq => ?_
    · simp only [Finset.coe_product, Finset.coe_range, Set.mem_prod, Set.mem_Iio] at hp ⊢
      have := word_end_le hp.1 hp.2
      omega
    · simp only [Finset.coe_product, Finset.coe_range, Set.mem_prod, Set.mem_Iio] at hp hq
      obtain ⟨hx, hy⟩ := twiddle_inj hp.1 hp.2 hq.1 hq.2 hpq
      exact Prod.ext hx hy
  rw [Finset.card_product, Finset.card_range, Finset.card_range, Finset.card_range] at hcard
  omega

/-- Settles O50: the coordinates read back from the address, and the two bounds of `PVRTC_NEED`. -/
theorem twiddledWordsAreDistinct : Obligations.TwiddledWordsAreDistinct := by
  refine ⟨fun nx ny x y x' y' hx hy hx' hy' h => twiddle_inj hx hy hx' hy' h, fun a b => ?_⟩
  have hpos : 0 < 2 ^ a * 2 ^ b := Nat.mul_pos (Nat.two_pow_pos a) (Nat.two_pow_pos b)
  rw [Nat.mul_assoc]
  exact Nat.le_antisymm (pvrtcNeed_le hpos fun x y hx hy => twiddle_lt_two_pow hx hy) (le_pvrtcNeed _ _)

end Sys2Proof.Machine
end

section
/-! PROOF. O25, O29, O30 and O31: the PVRTC DECODE, from its checks to its end. The procedure is reached on a ready region,
its checks come in one order, and a miss and a hit each end in a state that the writes of the region and the cache give. -/

namespace Sys2Proof.Machine

/-! ## The PVRTC DECODE commands (R72) -/

/-- Each PVRTC DECODE is the DECODE of a code whose datapath is its format's. -/
theorem pvrtcDecodes_spec {p : Instr × PvrtcFormat × Nat} (hp : p ∈ pvrtcDecodes) :
    p.2.2 < 2 ^ 32 ∧ datapathOf p.2.2 = some (.pvrtc p.2.1) ∧
      ∀ s, exec p.1 s = decodeCommand (BitVec.ofNat 64 p.2.2) s := by
  simp only [pvrtcDecodes, List.mem_cons, List.not_mem_nil, or_false] at hp
  rcases hp with rfl | rfl | rfl | rfl
  · exact ⟨by decide, rfl, fun _ => rfl⟩
  · exact ⟨by decide, rfl, fun _ => rfl⟩
  · exact ⟨by decide, rfl, fun _ => rfl⟩
  · exact ⟨by decide, rfl, fun _ => rfl⟩

/-- `i` is the DECODE of the format word `fmt`, of the class of the PVRTC format `f` (R221). -/
structure DecodesImage (p : Config.Params) (i : Instr) (fmt : Word64) (f : PvrtcFormat) : Prop where
  command : ∀ s, exec i s = decodeCommand fmt s
  pvrtc : classOf p fmt = .pvrtc f

theorem pvrtcDecodes_decodesImage {q : Instr × PvrtcFormat × Nat} (hq : q ∈ pvrtcDecodes) {p : Config.Params}
    (hk : q.2.2 ∈ p.knownFormats) : DecodesImage p q.1 (BitVec.ofNat 64 q.2.2) q.2.1 := by
  obtain ⟨hcode, hdatapath, hexec⟩ := pvrtcDecodes_spec hq
  exact ⟨hexec, by simp [classOf_named p hcode, isKnown, hk, hdatapath]⟩

/-- On a ready region a PVRTC DECODE runs its family procedure (R220). -/
theorem decodeProcedure_pvrtc {fmt : Word64} {f : PvrtcFormat} {s : State} {g : Geometry} {r : Rect}
    (hc : classOf s.params fmt = .pvrtc f) (hr : RegionReady s.unit g r) :
    decodeProcedure fmt s = decodePvrtc f g r (s.withUnit (s.unit.withWrites [])) := by
  rw [decodeProcedure_run (decodeEntry_ready s.params fmt hr (by simp [hc])), hc]
  rfl

/-! ## The checks (R197, R208, R259) -/

section
variable {s : State} {g : Geometry} {r : Rect} {f : PvrtcFormat}

theorem decodePvrtc_of_payloadLen_none (h : s.unit.payloadLen = none) :
    decodePvrtc f g r s = .error (.raise (.unsetConfig (.config .payloadLen))) := by
  rcases decodePvrtc_eq s g r f with ⟨-, he⟩ | ⟨hlen, -⟩ | ⟨len, id, hlen, -⟩
  · exact he
  · exact absurd h hlen
  · simp [h] at hlen

theorem decodePvrtc_of_infoId_none (hlen : s.unit.payloadLen ≠ none) (h : s.unit.infoId = none) :
    decodePvrtc f g r s = .error (.raise (.unsetConfig (.config .infoId))) := by
  rcases decodePvrtc_eq s g r f with ⟨hnone, -⟩ | ⟨-, -, he⟩ | ⟨len, id, -, hid, -⟩
  · exact absurd hnone hlen
  · exact he
  · simp [h] at hid

/-- The payload check, once both registers are written (R208). -/
theorem decodePvrtc_of_written {len id : Word32} (hlen : s.unit.payloadLen = some len) (hid : s.unit.infoId = some id) :
    decodePvrtc f g r s =
      if len.toNat < pvrtcNeed (gridColumns f.wordWidth g.texW) (gridRows g.texH) then .error (.raise .payloadUnderrun)
      else decodeCached f g r id s := by
  rcases decodePvrtc_eq s g r f with ⟨hnone, -⟩ | ⟨-, hnone, -⟩ | ⟨len', id', hlen', hid', hcheck⟩
  · simp [hlen] at hnone
  · simp [hid] at hnone
  · obtain rfl : len' = len := Option.some.inj (hlen'.symm.trans hlen)
    obtain rfl : id' = id := Option.some.inj (hid'.symm.trans hid)
    rcases hcheck with ⟨hshort, he⟩ | ⟨hreach, he⟩
    · rw [if_pos hshort, he]
    · have hreach' : pvrtcNeed (gridColumns f.wordWidth g.texW) (gridRows g.texH) ≤ len'.toNat := by
        simpa [payloadBytes, hlen] using hreach
      rw [if_neg (by omega), he]

/-- Where the image is ready the checks pass, and the payload reaches `PVRTC_NEED`. -/
theorem decodePvrtc_of_imageReady {id : Word32} (h : ImageReady s.unit g f id) :
    decodePvrtc f g r s = decodeCached f g r id s ∧
      pvrtcNeed (gridColumns f.wordWidth g.texW) (gridRows g.texH) ≤ payloadBytes s.unit := by
  obtain ⟨hid, len, hlen, hneed⟩ := h
  have hreach : pvrtcNeed (gridColumns f.wordWidth g.texW) (gridRows g.texH) ≤ len.toNat := hneed
  refine ⟨?_, by simpa [payloadBytes, hlen] using hreach⟩
  rw [decodePvrtc_of_written hlen hid, if_neg (by omega)]

end

/-- On a ready region a PVRTC DECODE raises where its procedure does. -/
theorem DecodesImage.raises {i : Instr} {fmt : Word64} {f : PvrtcFormat} {s : State} {g : Geometry} {r : Rect}
    {e : ErrorKind} (h : DecodesImage s.params i fmt f) (hr : RegionReady s.unit g r)
    (he : decodePvrtc f g r (s.withUnit (s.unit.withWrites [])) = .error (.raise e)) :
    exec i s = .next (s.raised true e.status e.info) := by
  rw [h.command, ← State.raise_eq_raised]
  exact decodeCommand_of_raise ((decodeProcedure_pvrtc h.pvrtc hr).trans he)

/-- Settles O25: the three checks in their order, before the lookup. -/
theorem imagePayloadChecks : Obligations.ImagePayloadChecks := by
  intro q hq s g r hr hk
  have himage := pvrtcDecodes_decodesImage hq hk
  refine ⟨fun hnone => ?unsetLength, fun len hlen => ⟨fun hnone => ?unsetId, fun hwritten hshort => ?underrun⟩⟩
  case unsetLength =>
    exact himage.raises (e := .unsetConfig (.config .payloadLen)) hr (decodePvrtc_of_payloadLen_none hnone)
  case unsetId =>
    have hsome : s.unit.payloadLen ≠ none := by simp [hlen]
    exact himage.raises (e := .unsetConfig (.config .infoId)) hr (decodePvrtc_of_infoId_none hsome hnone)
  case underrun =>
    obtain ⟨id, hid⟩ := Option.ne_none_iff_exists'.mp hwritten
    have hcheck := decodePvrtc_of_written (s := s.withUnit (s.unit.withWrites [])) (g := g) (r := r) (f := q.2.1) hlen hid
    exact himage.raises (e := .payloadUnderrun) hr (hcheck.trans (if_pos hshort))

/-! ## The cache entry of a key (R262) -/

/-- Where keys are distinct, an entry is found by its key. -/
theorem cacheFind_of_mem {c : List CacheEntry} (hd : (cacheKeys c).Nodup) {e : CacheEntry} (he : e ∈ c) :
    cacheFind c e.key = some e := by
  obtain ⟨d, hd'⟩ : ∃ d, cacheFind c e.key = some d := by
    rw [← Option.ne_none_iff_exists', Ne, cacheFind_none_iff, not_not]
    exact List.mem_map_of_mem he
  obtain ⟨hmem, hkey⟩ := cacheFind_some hd'
  rw [hd', List.inj_on_of_nodup_map hd hmem he hkey]

/-- Where keys are distinct, removing a key is keeping the others. -/
theorem cacheRemove_eq_filter {c : List CacheEntry} (hd : (cacheKeys c).Nodup) (k : Word32) :
    cacheRemove c k = c.filter fun d => d.key ≠ k := by
  induction c with
  | nil => rfl
  | cons d rest ih =>
    obtain ⟨hnotin, hrest⟩ := List.nodup_cons.mp hd
    by_cases hk : d.key = k
    · have hkeep : ∀ e ∈ rest, e.key ≠ k := fun e he hek => hnotin (hk ▸ hek ▸ List.mem_map_of_mem he)
      have hall : rest.filter (fun e => e.key ≠ k) = rest := List.filter_eq_self.mpr fun e he => by simp [hkeep e he]
      rw [cacheRemove, List.eraseP_cons_of_pos (by simp [hk]), List.filter_cons_of_neg (by simp [hk]), hall]
    · rw [cacheRemove, List.eraseP_cons_of_neg (by simp [hk]), List.filter_cons_of_pos (by simp [hk]), ← ih hrest,
        cacheRemove]

/-! ## A miss and a hit (R197) -/

/-- The writes of a region depend on the pixels inside it only. -/
theorem RegionWrites.congr {u : DecodeUnit} {g : Geometry} {r : Rect} {pixel pixel' : Nat → Nat → Pixel}
    {ws : List (Nat × Word32)} (h : RegionWrites u g r pixel ws)
    (hpx : ∀ x y, r.contains x y = true → pixel x y = pixel' x y) : RegionWrites u g r pixel' ws where
  exact w := by
    rw [h.exact]
    constructor
    · rintro ⟨x, y, hxy, rfl⟩
      exact ⟨x, y, hxy, by rw [hpx x y hxy]⟩
    · rintro ⟨x, y, hxy, rfl⟩
      exact ⟨x, y, hxy, by rw [hpx x y hxy]⟩
  bound := h.bound
  single := h.single

/-- The bitmap is the whole texture that the unit `u` decodes in the format `f` (R194, R197). -/
structure Bitmap.IsTexture (bm : Bitmap) (u : DecodeUnit) (f : PvrtcFormat) (g : Geometry) : Prop where
  width : bm.width = g.texW
  height : bm.height = g.texH
  pixel : ∀ x y, x < g.texW → y < g.texH → bm.pixel x y = some (texturePixel u f g.texW g.texH x y)

section
variable {fmt : Word64} {f : PvrtcFormat} {s : State} {g : Geometry} {r : Rect} {id : Word32}
  (hc : classOf s.params fmt = .pvrtc f) (hr : RegionReady s.unit g r) (hi : ImageReady s.unit g f id)
include hc hr hi

/-- A PVRTC DECODE that misses decodes the texture, writes the region from it and inserts it. -/
theorem decodeCommand_pvrtc_miss (hmiss : cacheFind s.cache id = none) :
    ∃ bm ws, decodeCommand fmt s = .next (s.imageDone (writeTargets s.targets s.unit.binding ws)
        (cacheInsert (cacheApplyAll s.cache s.gapOps) id bm)) ∧
      bm.IsTexture s.unit f g ∧ RegionWrites s.unit g r (texturePixel s.unit f g.texW g.texH) ws := by
  obtain ⟨hcached, hneed⟩ := decodePvrtc_of_imageReady (s := s.withUnit (s.unit.withWrites [])) (r := r) hi
  obtain ⟨bm, c, ws, hok, hwidth, hheight, hpixel, hws⟩ :=
    decodeCached_miss (s := s.withUnit (s.unit.withWrites [])) (hr.withWrites []) rfl f hmiss hneed
  have hprocedure := (decodeProcedure_pvrtc hc hr).trans (hcached.trans hok)
  refine ⟨bm, ws, ?_, ⟨hwidth, hheight, hpixel⟩, { hws with }⟩
  rw [decodeCommand_of_ok hprocedure, imagePending_finish_miss]
  rfl

/-- A PVRTC DECODE that hits writes the region from the bitmap found, where that has every pixel of the region, and moves
the entry to the most recently used end. -/
theorem decodeCommand_pvrtc_hit {e : CacheEntry} (hhit : cacheFind s.cache id = some e) {pixel : Nat → Nat → Pixel}
    (hpixel : ∀ x y, r.contains x y = true → e.bitmap.pixel x y = some (pixel x y)) :
    ∃ ws, decodeCommand fmt s = .next (s.imageDone (writeTargets s.targets s.unit.binding ws)
        (cacheApplyAll (cacheRemove s.cache id ++ [e]) s.gapOps)) ∧
      RegionWrites s.unit g r pixel ws := by
  obtain ⟨hcached, -⟩ := decodePvrtc_of_imageReady (s := s.withUnit (s.unit.withWrites [])) (r := r) hi
  rcases decodeCached_hit (s := s.withUnit (s.unit.withWrites [])) (hr.withWrites []) rfl f hhit with
    ⟨pixel', c, ws, hpixel', hok, hws⟩ | ⟨-, x, y, hxy, hnone⟩
  · have hprocedure := (decodeProcedure_pvrtc hc hr).trans (hcached.trans hok)
    have hsame : ∀ x y, r.contains x y = true → pixel' x y = pixel x y := fun x y hxy =>
      Option.some.inj ((hpixel' x y hxy).symm.trans (hpixel x y hxy))
    refine ⟨ws, ?_, { hws.congr hsame with }⟩
    rw [decodeCommand_of_ok hprocedure, imagePending_finish_hit]
    rfl
  · rw [hpixel x y hxy] at hnone
    cases hnone

/-- A hit that answers a next state has found every pixel of the region (R287). -/
theorem exists_pixel_of_decodeCommand_next {e : CacheEntry} (hhit : cacheFind s.cache id = some e) {t : State}
    (h : decodeCommand fmt s = .next t) :
    ∃ pixel : Nat → Nat → Pixel, ∀ x y, r.contains x y = true → e.bitmap.pixel x y = some (pixel x y) := by
  obtain ⟨hcached, -⟩ := decodePvrtc_of_imageReady (s := s.withUnit (s.unit.withWrites [])) (r := r) hi
  rcases decodeCached_hit (s := s.withUnit (s.unit.withWrites [])) (hr.withWrites []) rfl f hhit with
    ⟨pixel, -, -, hpixel, -, -⟩ | ⟨hstop, -⟩
  · exact ⟨pixel, hpixel⟩
  · have hprocedure := (decodeProcedure_pvrtc hc hr).trans (hcached.trans hstop)
    simp [decodeCommand, hprocedure, Except.map, finish] at h

end

/-- The clipped region lies in the texture, so the texture's bitmap has every pixel of it. -/
theorem RegionReady.mem_texture {u : DecodeUnit} {g : Geometry} {r : Rect} (h : RegionReady u g r) {x y : Nat}
    (hxy : r.contains x y = true) : x < g.texW ∧ y < g.texH := by
  obtain ⟨hx, hy, -⟩ := h.bounds
  rw [contains_iff] at hxy
  omega

/-- Settles O29: a miss, with its whole next state. -/
theorem pvrtcMissDecodesImage : Obligations.PvrtcMissDecodesImage := by
  intro q hq s g r id hr hk hi hmiss
  have himage := pvrtcDecodes_decodesImage hq hk
  obtain ⟨bm, ws, hend, hbm, hws⟩ := decodeCommand_pvrtc_miss himage.pvrtc hr hi (cacheFind_none_iff.mpr hmiss)
  exact ⟨_, bm, (himage.command s).trans hend, hbm.width, hbm.height, hbm.pixel,
    writeTargets_writesTarget hr.fitsW hws.exact⟩

/-- Settles O30: a hit, with its whole next state. -/
theorem pvrtcHitCopiesBitmap : Obligations.PvrtcHitCopiesBitmap := by
  intro q hq s g r e pixel hr hk hi hdistinct he hpixel
  have himage := pvrtcDecodes_decodesImage hq hk
  obtain ⟨ws, hend, hws⟩ := decodeCommand_pvrtc_hit himage.pvrtc hr hi (cacheFind_of_mem hdistinct he) hpixel
  rw [cacheRemove_eq_filter hdistinct] at hend
  exact ⟨_, (himage.command s).trans hend, writeTargets_writesTarget hr.fitsW hws.exact⟩

/-- Two lists of writes of one region with the same pixels leave the same target memories. -/
theorem RegionWrites.writeTargets_eq {u v : DecodeUnit} {g : Geometry} {r : Rect} {pixel : Nat → Nat → Pixel}
    {ws ws' : List (Nat × Word32)} (h : RegionWrites u g r pixel ws) (h' : RegionWrites v g r pixel ws')
    {ts : List (Nat × List (Nat × Word32))} (ht : targetsWf ts = true) (b : Nat) :
    writeTargets ts b ws = writeTargets ts b ws' :=
  writeTargets_congr ht (fun w => (h.exact w).trans (h'.exact w).symm) h.single

/-- Settles O31: on a hit and on a miss the region takes the pixels of one texture. -/
theorem hitEqualsMiss : Obligations.HitEqualsMiss := by
  intro q hq s g r e hr hk hi htargets hdistinct he hpixel
  have himage := pvrtcDecodes_decodesImage hq hk
  obtain ⟨ws, hhit, hws⟩ := decodeCommand_pvrtc_hit himage.pvrtc hr hi (cacheFind_of_mem hdistinct he)
    fun x y hxy => hpixel x y (hr.mem_texture hxy).1 (hr.mem_texture hxy).2
  obtain ⟨bm, ws', hmiss, -, hws'⟩ :=
    decodeCommand_pvrtc_miss (s := { s with cache := [] }) himage.pvrtc hr hi rfl
  refine ⟨_, _, (himage.command s).trans hhit, (himage.command _).trans hmiss, rfl, ?_⟩
  exact hws.writeTargets_eq hws' htargets s.unit.binding

end Sys2Proof.Machine
end

section
/-! PROOF. O18: a command run again. What a command does is the same on every state that holds the same registers, latch
bytes, payload and parameters, but for the cache; and a command changes none of these. So it repeats its raise, its report,
its tile or its pixels; a PVRTC DECODE that missed finds the texture it inserted, and writes the same pixels from it. -/

namespace Sys2Proof.Machine

/-! ## What a command reads -/

/-- The two states hold the same in everything that a command reads outside the cache. -/
structure SameCommandInputs (s t : State) : Prop where
  params : t.params = s.params
  fmt : t.unit.fmt = s.unit.fmt
  config : ∀ q, t.unit.config q = s.unit.config q
  blkIn : t.unit.blkIn = s.unit.blkIn
  payload : t.unit.payload = s.unit.payload

theorem SameCommandInputs.refl (s : State) : SameCommandInputs s s := ⟨rfl, rfl, fun _ => rfl, rfl, rfl⟩

theorem SameCommandInputs.withWrites {s t : State} (h : SameCommandInputs s t) (ws : List (Nat × Word32)) :
    SameCommandInputs s (t.withUnit (t.unit.withWrites ws)) where
  params := h.params
  fmt := h.fmt
  config q := (DecodeUnit.withWrites_config t.unit ws q).trans (h.config q)
  blkIn := h.blkIn
  payload := h.payload

theorem sameCommandInputs_raise (s : State) (d : Bool) (e : ErrorKind) : SameCommandInputs s (s.raise d e) :=
  ⟨rfl, rfl, DecodeUnit.raise_config _ _ _, rfl, rfl⟩

theorem sameCommandInputs_complete (s : State) (result : Option Bool) (k : Completion) :
    SameCommandInputs s (s.complete result k) :=
  ⟨rfl, rfl, DecodeUnit.complete_config _ _ _, rfl, rfl⟩

theorem sameCommandInputs_decodeDone (s : State) (ts : List (Nat × List (Nat × Word32))) (code : Byte) :
    SameCommandInputs s (s.decodeDone ts code) :=
  ⟨rfl, rfl, fun q => by cases q <;> rfl, rfl, rfl⟩

theorem sameCommandInputs_imageDone (s : State) (ts : List (Nat × List (Nat × Word32))) (d : List CacheEntry) :
    SameCommandInputs s (s.imageDone ts d) :=
  ⟨rfl, rfl, fun q => by cases q <;> rfl, rfl, rfl⟩

theorem sameCommandInputs_blockDone (s : State) (o : Vector (Option Pixel) 32) : SameCommandInputs s (s.blockDone o) :=
  ⟨rfl, rfl, fun q => by cases q <;> rfl, rfl, rfl⟩

section
variable {s t : State} (h : SameCommandInputs s t)
include h

theorem SameCommandInputs.payloadSlice (a n : Nat) :
    Machine.payloadSlice t.unit a n = Machine.payloadSlice s.unit a n := by
  simp only [Machine.payloadSlice, payloadByte, h.payload]

theorem SameCommandInputs.blockBytesAt (texW blockBytes x y : Nat) :
    Machine.blockBytesAt t.unit texW blockBytes x y = Machine.blockBytesAt s.unit texW blockBytes x y :=
  h.payloadSlice _ _

theorem SameCommandInputs.imageReady {g : Geometry} {f : PvrtcFormat} {id : Word32} (hi : ImageReady s.unit g f id) :
    ImageReady t.unit g f id := by
  obtain ⟨hid, len, hlen, hneed⟩ := hi
  exact ⟨(h.config .infoId).trans hid, len, (h.config .payloadLen).trans hlen, hneed⟩

/-- The entry reads `CTRL`, `FMT` and the configuration registers (R220). -/
theorem SameCommandInputs.decodeEntry (fmt : Word64) :
    Machine.decodeEntry t.params fmt t.unit = Machine.decodeEntry s.params fmt s.unit := by
  simp only [Machine.decodeEntry, entryRegion, readGeometry, readConfig, readFmt, h.params, h.fmt, h.config]

end

/-- A region that the entry answers is ready (R220 to R224). -/
theorem ready_of_decodeEntry_run {p : Config.Params} {fmt : Word64} {u : DecodeUnit} {c : FormatClass} {g : Geometry}
    {r : Rect} (h : decodeEntry p fmt u = .ok (.run c g r)) : RegionReady u g r := by
  rcases decodeEntry_cases p fmt u with ⟨e, he, -⟩ | he | ⟨he, -⟩ | ⟨g', r', he, hr, -⟩ <;> rw [h] at he <;> cases he
  exact hr

/-! ## A DECODE on states with the same inputs -/

section
variable {s : State} {g : Geometry} {r : Rect} (hr : RegionReady s.unit g r) (h0 : s.unit.writes = [])
  (blockBytes : Nat) (tile : List Byte → List Pixel)
include hr h0

theorem decodeBlocks_of_payloadLen_none (h : s.unit.payloadLen = none) :
    decodeBlocks blockBytes tile g r s = .error (.raise (.unsetConfig (.config .payloadLen))) := by
  rcases decodeBlocks_eq hr h0 blockBytes tile with ⟨-, he⟩ | ⟨len, hlen, -⟩
  · exact he
  · simp [h] at hlen

theorem decodeBlocks_of_short {len : Word32} (hlen : s.unit.payloadLen = some len)
    (hshort : len.toNat < blocksNeed blockBytes g r) :
    decodeBlocks blockBytes tile g r s = .error (.raise .payloadUnderrun) := by
  rcases decodeBlocks_eq hr h0 blockBytes tile with ⟨hnone, -⟩ | ⟨len', hlen', ⟨-, he⟩ | ⟨hreach, -⟩⟩
  · simp [hlen] at hnone
  · exact he
  · obtain rfl : len' = len := Option.some.inj (hlen'.symm.trans hlen)
    omega

theorem decodeBlocks_of_reach {len : Word32} (hlen : s.unit.payloadLen = some len)
    (hreach : blocksNeed blockBytes g r ≤ len.toNat) :
    ∃ c ws, decodeBlocks blockBytes tile g r s = .ok (s.pending c ws none .ok) ∧
      RegionWrites s.unit g r
        (fun x y => tileAt (tile (blockBytesAt s.unit g.texW blockBytes x y)) (4 * (y % 4) + x % 4)) ws := by
  rcases decodeBlocks_eq hr h0 blockBytes tile with ⟨hnone, -⟩ | ⟨len', hlen', ⟨hshort, -⟩ | ⟨-, hok⟩⟩
  · simp [hlen] at hnone
  · obtain rfl : len' = len := Option.some.inj (hlen'.symm.trans hlen)
    omega
  · exact hok

end

/-- A family procedure raises `e` on every state with the inputs of `s`. -/
def FamilyRaises (s : State) (k : FormatClass) (g : Geometry) (r : Rect) (e : ErrorKind) : Prop :=
  ∀ t, SameCommandInputs s t → RegionReady t.unit g r → t.unit.writes = [] → decodeFamily k g r t = .error (.raise e)

/-- A family procedure leaves the writes of the same pixels to be made on every state with the inputs of `s`. -/
def FamilyWrites (s : State) (k : FormatClass) (g : Geometry) (r : Rect) (pixel : Nat → Nat → Pixel) (n : Completion) :
    Prop :=
  ∀ t, SameCommandInputs s t → RegionReady t.unit g r → t.unit.writes = [] →
    ∃ c ws, decodeFamily k g r t = .ok (t.pending c ws none n) ∧ RegionWrites t.unit g r pixel ws

/-- The block decoders by `PAYLOAD_LEN` (R228). -/
theorem blockFamily_uniform (s : State) {k : FormatClass} (g : Geometry) (r : Rect) (blockBytes : Nat)
    (tile : List Byte → List Pixel) (hk : ∀ t, decodeFamily k g r t = decodeBlocks blockBytes tile g r t) :
    (∃ e, FamilyRaises s k g r e) ∨ ∃ pixel n, FamilyWrites s k g r pixel n := by
  cases hlen : s.unit.payloadLen with
  | none =>
    exact .inl ⟨_, fun t h hr h0 => (hk t).trans
      (decodeBlocks_of_payloadLen_none hr h0 blockBytes tile ((h.config .payloadLen).trans hlen))⟩
  | some len =>
    have hwritten : ∀ t, SameCommandInputs s t → t.unit.payloadLen = some len := fun t h =>
      (h.config .payloadLen).trans hlen
    by_cases hshort : len.toNat < blocksNeed blockBytes g r
    · exact .inl ⟨_, fun t h hr h0 => (hk t).trans
        (decodeBlocks_of_short hr h0 blockBytes tile (hwritten t h) hshort)⟩
    · refine .inr ⟨fun x y => tileAt (tile (blockBytesAt s.unit g.texW blockBytes x y)) (4 * (y % 4) + x % 4), .ok,
        fun t h hr h0 => ?_⟩
      have hok := decodeBlocks_of_reach hr h0 blockBytes tile (hwritten t h) (Nat.le_of_not_lt hshort)
      simpa only [hk, h.blockBytesAt] using hok

/-- A PVRTC DECODE by `PAYLOAD_LEN` and `INFO_ID` (R197, R208). -/
theorem pvrtcFamily_uniform (s : State) (f : PvrtcFormat) (g : Geometry) (r : Rect) :
    (∃ e, FamilyRaises s (.pvrtc f) g r e) ∨ ∃ id, ImageReady s.unit g f id := by
  cases hlen : s.unit.payloadLen with
  | none =>
    exact .inl ⟨_, fun t h _ _ => decodePvrtc_of_payloadLen_none ((h.config .payloadLen).trans hlen)⟩
  | some len =>
    have hwritten : ∀ t, SameCommandInputs s t → t.unit.payloadLen = some len := fun t h =>
      (h.config .payloadLen).trans hlen
    cases hid : s.unit.infoId with
    | none =>
      exact .inl ⟨_, fun t h _ _ => decodePvrtc_of_infoId_none (by simp [hwritten t h]) ((h.config .infoId).trans hid)⟩
    | some id =>
      by_cases hshort : len.toNat < pvrtcNeed (gridColumns f.wordWidth g.texW) (gridRows g.texH)
      · exact .inl ⟨_, fun t h _ _ =>
          (decodePvrtc_of_written (hwritten t h) ((h.config .infoId).trans hid)).trans (if_pos hshort)⟩
      · exact .inr ⟨id, hid, len, hlen, Nat.le_of_not_lt hshort⟩

/-- A family procedure on states with the same inputs: it raises, it writes the same pixels, or it is a PVRTC DECODE that
passes its checks. -/
theorem decodeFamily_uniform (s : State) {k : FormatClass} (hk : k ≠ .unknown) (g : Geometry) (r : Rect) :
    (∃ e, FamilyRaises s k g r e) ∨ (∃ pixel n, FamilyWrites s k g r pixel n) ∨
      ∃ f id, k = .pvrtc f ∧ ImageReady s.unit g f id := by
  cases k with
  | unknown => exact absurd rfl hk
  | fallback => exact .inr (.inl ⟨_, _, fun t _ hr h0 => decodeFallback_eq hr h0⟩)
  | dxt f => exact (blockFamily_uniform s g r f.blockBytes (dxtTile f) fun _ => rfl).imp_right .inl
  | etc f => exact (blockFamily_uniform s g r f.blockBytes (etcTile f) fun _ => rfl).imp_right .inl
  | pvrtc f => exact (pvrtcFamily_uniform s f g r).imp_right fun ⟨id, hi⟩ => .inr ⟨f, id, rfl, hi⟩

/-- A DECODE on states with the same inputs (R220, R235): it raises, it completes at once, it writes the same pixels, or it
is a PVRTC DECODE that passes its checks. -/
theorem decodeCommand_uniform (fmt : Word64) (s : State) :
    (∃ e, ∀ t, SameCommandInputs s t → decodeCommand fmt t = .next (t.raise true e)) ∨
    (∃ result k, ∀ t, SameCommandInputs s t → decodeCommand fmt t = .next (t.complete result k)) ∨
    (∃ g r pixel code, ∀ t, SameCommandInputs s t → ∃ ws,
      decodeCommand fmt t = .next (t.decodeDone (writeTargets t.targets t.unit.binding ws) code) ∧
        RegionWrites t.unit g r pixel ws) ∨
    ∃ f g r id, ∀ t, SameCommandInputs s t →
      classOf t.params fmt = .pvrtc f ∧ RegionReady t.unit g r ∧ ImageReady t.unit g f id := by
  rcases decodeEntry_cases s.params fmt s.unit with ⟨e, he, -⟩ | he | ⟨he, -⟩ | ⟨g, r, he, -, hk⟩
  · exact .inl ⟨e, fun t h => decodeCommand_of_raise (decodeProcedure_error ((h.decodeEntry fmt).trans he))⟩
  · exact .inr (.inl ⟨_, _, fun t h => decodeCommand_of_ok (decodeProcedure_null ((h.decodeEntry fmt).trans he))⟩)
  · exact .inr (.inl ⟨_, _, fun t h => decodeCommand_of_ok (decodeProcedure_empty ((h.decodeEntry fmt).trans he))⟩)
  have hrun := fun t (h : SameCommandInputs s t) => decodeProcedure_run ((h.decodeEntry fmt).trans he)
  have hready := fun t (h : SameCommandInputs s t) => ready_of_decodeEntry_run ((h.decodeEntry fmt).trans he)
  rcases decodeFamily_uniform s hk g r with ⟨e, hraises⟩ | ⟨pixel, n, hwrites⟩ | ⟨f, id, hclass, hi⟩
  · exact .inl ⟨e, fun t h => decodeCommand_of_raise
      ((hrun t h).trans (hraises _ (h.withWrites []) ((hready t h).withWrites []) rfl))⟩
  · refine .inr (.inr (.inl ⟨g, r, pixel, n.status, fun t h => ?_⟩))
    obtain ⟨c, ws, hok, hws⟩ := hwrites _ (h.withWrites []) ((hready t h).withWrites []) rfl
    exact ⟨ws, decodeCommand_of_ok ((hrun t h).trans hok), { hws with }⟩
  · exact .inr (.inr (.inr ⟨f, g, r, id, fun t h =>
      ⟨(congrArg (classOf · fmt) h.params).trans hclass, hready t h, h.imageReady hi⟩⟩))

/-! ## A DECODE run again -/

/-- The writes of a region made again leave the target memories as they are (R227). -/
theorem RegionWrites.writeTargets_again {u v : DecodeUnit} {g : Geometry} {r : Rect} {pixel : Nat → Nat → Pixel}
    {ws ws' : List (Nat × Word32)} (h : RegionWrites u g r pixel ws) (h' : RegionWrites v g r pixel ws')
    {ts : List (Nat × List (Nat × Word32))} (ht : targetsWf ts = true) (b : Nat) :
    writeTargets (writeTargets ts b ws) b ws' = writeTargets ts b ws := by
  rw [← writeTargets_append]
  refine (writeTargets_congr ht (fun w => ?_) h.single).symm
  rw [List.mem_append, h.exact, h'.exact, or_self]

/-- A lookup of the most recently used entry leaves the order as it is (R262). -/
theorem cacheLookup_last {c : List CacheEntry} {e : CacheEntry} (h : e.key ∉ cacheKeys c) :
    cacheFind (c ++ [e]) e.key = some e ∧ cacheRemove (c ++ [e]) e.key = c := by
  have hother : ∀ d ∈ c, ¬ (d.key == e.key) = true := fun d hd hde =>
    h ((beq_iff_eq.mp hde) ▸ List.mem_map_of_mem hd)
  constructor
  · rw [cacheFind, List.find?_append, List.find?_eq_none.mpr hother]
    simp
  · rw [cacheRemove, List.eraseP_append_right _ hother]
    simp

/-- An insertion of a key puts its one entry at the most recently used end (R263). -/
theorem cacheInsert_eq_append {c : List CacheEntry} {id : Word32} (h : cacheFind c id = none) (bm : Bitmap) :
    ∃ d, id ∉ cacheKeys d ∧ cacheInsert c id bm = d ++ [{ key := id, bitmap := bm }] := by
  have hnotin := cacheFind_none_iff.mp h
  refine ⟨if c.length = Config.cacheCap then c.drop 1 else c, ?_, by rw [cacheInsert, h]⟩
  split
  · exact fun hin => hnotin (((List.drop_sublist 1 c).map _).subset hin)
  · exact hnotin

/-- A lookup that hits leaves one entry of its key, at the most recently used end (R262). -/
theorem not_mem_cacheKeys_cacheRemove {c : List CacheEntry} (hd : (cacheKeys c).Nodup) (id : Word32) :
    id ∉ cacheKeys (cacheRemove c id) := by
  rw [cacheRemove_eq_filter hd]
  simp [cacheKeys]

/-- A PVRTC DECODE whose entry is the most recently used one, and whose pixels are in the target, changes nothing. -/
theorem decodeCommand_pvrtc_again {fmt : Word64} {f : PvrtcFormat} {s : State} {g : Geometry} {r : Rect}
    {e : CacheEntry} {pixel : Nat → Nat → Pixel} {ws : List (Nat × Word32)} {d : List CacheEntry}
    (hready : ∀ t, SameCommandInputs s t →
      classOf t.params fmt = .pvrtc f ∧ RegionReady t.unit g r ∧ ImageReady t.unit g f e.key)
    (ht : targetsWf s.targets = true) (hws : RegionWrites s.unit g r pixel ws) (hd : e.key ∉ cacheKeys d)
    (hpixel : ∀ x y, r.contains x y = true → e.bitmap.pixel x y = some (pixel x y)) :
    let t := s.imageDone (writeTargets s.targets s.unit.binding ws) (d ++ [e])
    decodeCommand fmt t = .next t := by
  intro t
  obtain ⟨hc, hr, hi⟩ := hready t (sameCommandInputs_imageDone s _ _)
  obtain ⟨hfind, hremove⟩ := cacheLookup_last hd
  obtain ⟨ws', hend, hws'⟩ := decodeCommand_pvrtc_hit hc hr hi hfind hpixel
  have htargets : writeTargets t.targets t.unit.binding ws' = t.targets := hws.writeTargets_again hws' ht s.unit.binding
  have hcache : cacheApplyAll (cacheRemove t.cache e.key ++ [e]) t.gapOps = t.cache := congrArg (· ++ [e]) hremove
  rw [hend, htargets, hcache]
  rfl

/-- A DECODE run again on the state it left leaves that state (R199, R227). -/
theorem decodeCommand_again {fmt : Word64} {s t : State} (ht : targetsWf s.targets = true) (hcache : CacheInv s.cache)
    (hgap : s.gapOps = []) (h : decodeCommand fmt s = .next t) : decodeCommand fmt t = .next t := by
  rcases decodeCommand_uniform fmt s with ⟨e, hall⟩ | ⟨result, k, hall⟩ | ⟨g, r, pixel, code, hall⟩ |
    ⟨f, g, r, id, hready⟩
  · obtain rfl : s.raise true e = t := Host.Outcome.next.inj ((hall s (.refl s)).symm.trans h)
    exact hall _ (sameCommandInputs_raise s true e)
  · obtain rfl : s.complete result k = t := Host.Outcome.next.inj ((hall s (.refl s)).symm.trans h)
    refine (hall _ (sameCommandInputs_complete s result k)).trans ?_
    cases result <;> rfl
  · obtain ⟨ws, hend, hws⟩ := hall s (.refl s)
    obtain rfl := Host.Outcome.next.inj (hend.symm.trans h)
    obtain ⟨ws', hend', hws'⟩ := hall _ (sameCommandInputs_decodeDone s _ code)
    have htargets := hws.writeTargets_again hws' ht s.unit.binding
    exact hend'.trans (congrArg (fun ts => Host.Outcome.next (s.decodeDone ts code)) htargets)
  · obtain ⟨hc, hr, hi⟩ := hready s (.refl s)
    have hnone (c : List CacheEntry) : cacheApplyAll c s.gapOps = c := by rw [hgap]; rfl
    cases hfind : cacheFind s.cache id with
    | none =>
      obtain ⟨bm, ws, hend, hbm, hws⟩ := decodeCommand_pvrtc_miss hc hr hi hfind
      obtain ⟨d, hd, hinsert⟩ := cacheInsert_eq_append hfind bm
      rw [hnone, hinsert] at hend
      obtain rfl := Host.Outcome.next.inj (hend.symm.trans h)
      exact decodeCommand_pvrtc_again hready ht hws hd fun x y hxy =>
        hbm.pixel x y (hr.mem_texture hxy).1 (hr.mem_texture hxy).2
    | some e =>
      obtain ⟨pixel, hpixel⟩ := exists_pixel_of_decodeCommand_next hc hr hi hfind h
      obtain ⟨ws, hend, hws⟩ := decodeCommand_pvrtc_hit hc hr hi hfind hpixel
      obtain rfl := (cacheFind_some hfind).2
      rw [hnone] at hend
      obtain rfl := Host.Outcome.next.inj (hend.symm.trans h)
      exact decodeCommand_pvrtc_again hready ht hws (not_mem_cacheKeys_cacheRemove hcache.distinct e.key) hpixel

/-! ## A BLOCK run again -/

/-- The tile written again leaves `BLK_OUT` as it is (R40). -/
theorem blkOutAfter_again (old : Vector (Option Pixel) 32) (tile : List Pixel) :
    blkOutAfter (blkOutAfter old tile) tile = blkOutAfter old tile := by
  refine Vector.ext fun i hi => ?_
  change Vector.get _ ⟨i, hi⟩ = Vector.get _ ⟨i, hi⟩
  simp only [blkOutAfter_get]
  split <;> rfl

/-- A BLOCK on states with the same inputs: it raises, or it writes the same tile (R234). -/
theorem blockCommand_uniform (fmt : Word64) (s : State) :
    (∃ e, ∀ t, SameCommandInputs s t → blockCommand fmt t = .next (t.raise false e)) ∨
    ∃ tile, ∀ t, SameCommandInputs s t →
      blockCommand fmt t = .next (t.blockDone (blkOutAfter t.unit.blkOut tile)) := by
  have hraise {e : ErrorKind} (h : ∀ t, SameCommandInputs s t → blockProcedure fmt t = .error (.raise e)) :
      ∀ t, SameCommandInputs s t → blockCommand fmt t = .next (t.raise false e) := fun t ht => by
    rw [blockCommand, h t ht, finish_raise]
  cases hf : s.unit.fmt with
  | none =>
    refine .inl ⟨.unsetConfig .fmt, hraise fun t h => ?_⟩
    simp only [blockProcedure, readFmt_none (h.fmt.trans hf), bind, Except.bind]
  | some f =>
    have hwritten (t : State) (h : SameCommandInputs s t) : t.unit.fmt.isSome = true := by simp [h.fmt, hf]
    cases hc : blockClassOf s.params fmt with
    | none =>
      refine .inl ⟨.illegalBlock, hraise fun t h => ?_⟩
      simp only [blockProcedure, readFmt_some (hwritten t h), h.params, hc, bind, Except.bind]
    | some c =>
      cases hl : (s.unit.blkIn.toList.take c.latchBytes).mapM id with
      | none =>
        refine .inl ⟨.unsetConfig .blkIn, hraise fun t h => ?_⟩
        simp only [blockProcedure, readFmt_some (hwritten t h), h.params, hc, readLatch_eq, h.blkIn, hl, bind,
          Except.bind]
      | some bytes =>
        have hlatch : LatchHolds s.unit c.latchBytes bytes := mapM_id_eq_some hl
        refine .inr ⟨blockTile c bytes, fun t h => blockCommand_of_latchHolds (hwritten t h) ?_ ?_⟩
        · rw [h.params, hc]
        · rwa [LatchHolds, h.blkIn]

/-- A BLOCK run again on the state it left leaves that state. -/
theorem blockCommand_again {fmt : Word64} {s t : State} (h : blockCommand fmt s = .next t) :
    blockCommand fmt t = .next t := by
  rcases blockCommand_uniform fmt s with ⟨e, hall⟩ | ⟨tile, hall⟩
  · obtain rfl := Host.Outcome.next.inj ((hall s (.refl s)).symm.trans h)
    exact hall _ (sameCommandInputs_raise s false e)
  · obtain rfl := Host.Outcome.next.inj ((hall s (.refl s)).symm.trans h)
    refine (hall _ (sameCommandInputs_blockDone s _)).trans ?_
    exact congrArg (fun o => Host.Outcome.next (s.blockDone o)) (blkOutAfter_again s.unit.blkOut tile)

/-- Settles O18: a DECODE and a BLOCK by what they do on the state they left; FLUSH and an illegal word write the same
report again. -/
theorem commandsAreIdempotent : Obligations.CommandsAreIdempotent := by
  intro i s t htargets hcache hgap h
  rcases exec_cases i with ⟨fmt, hi⟩ | ⟨fmt, hi⟩ | hi | hi
  · rw [hi] at h ⊢
    exact decodeCommand_again htargets hcache hgap h
  · rw [hi] at h ⊢
    exact blockCommand_again h
  · obtain rfl := Host.Outcome.next.inj ((hi s).symm.trans h)
    exact hi _
  · obtain rfl := Host.Outcome.next.inj ((hi s).symm.trans h)
    exact hi _

end Sys2Proof.Machine
end

section
/-! PROOF. O19, O20 and O22: the DECODE entry. A null argument, an unwritten register and an empty region each end the
command in the entry; the class of an instruction's format gives the `STATUS` of the last. -/

namespace Sys2Proof.Machine

/-! ## The class of each DECODE instruction (R72, R221) -/

/-- `i` is a DECODE whose format is of class `c`. -/
structure DecodesAs (p : Config.Params) (i : Instr) (c : FormatClass) : Prop where
  command : isDecodeCommand i = true
  classOf_eq : classOf p (encodeFmt i) = c

theorem DecodesAs.exec_eq {p : Config.Params} {i : Instr} {c : FormatClass} (h : DecodesAs p i c) (s : State) :
    exec i s = decodeCommand (encodeFmt i) s := exec_decode h.command s

/-- `i` is the DECODE of the named code `n`, which has the datapath `d`, or none. -/
abbrev NamedDecode (i : Instr) (n : Nat) (d : Option FormatClass) : Prop :=
  isDecodeCommand i = true ∧ encodeFmt i = BitVec.ofNat 64 n ∧ n < 2 ^ 32 ∧ datapathOf n = d

theorem dxtDecodes_named : ∀ p ∈ dxtDecodes, NamedDecode p.1 p.2.2 (some (.dxt p.2.1)) := by decide

theorem etcDecodes_named : ∀ p ∈ etcDecodes, NamedDecode p.1 p.2.2 (some (.etc p.2.1)) := by decide

theorem pvrtcDecodes_named : ∀ p ∈ pvrtcDecodes, NamedDecode p.1 p.2.2 (some (.pvrtc p.2.1)) := by decide

theorem fallbackDecodes_named : ∀ p ∈ fallbackDecodes, NamedDecode p.1 p.2 none := by decide

section
variable {p : Config.Params} {i : Instr} {n : Nat}

theorem NamedDecode.dxt {f : DxtFormat} (h : NamedDecode i n (some (.dxt f))) (hk : n ∈ p.knownFormats) :
    DecodesAs p i (.dxt f) := by
  obtain ⟨hi, hfmt, hn, hd⟩ := h
  exact ⟨hi, hfmt ▸ classOf_dxt hn hk hd⟩

theorem NamedDecode.pvrtc {f : PvrtcFormat} (h : NamedDecode i n (some (.pvrtc f))) (hk : n ∈ p.knownFormats) :
    DecodesAs p i (.pvrtc f) := by
  obtain ⟨hi, hfmt, hn, hd⟩ := h
  exact ⟨hi, by simp [hfmt, classOf_named p hn, isKnown, hk, hd]⟩

/-- An ETC format takes its decoder or the Fallback as `ETC_ROUTED` says (R230). -/
theorem NamedDecode.etc {f : EtcFormat} (h : NamedDecode i n (some (.etc f))) (hk : n ∈ p.knownFormats) :
    DecodesAs p i (if p.etcRouted then .etc f else .fallback) := by
  obtain ⟨hi, hfmt, hn, hd⟩ := h
  exact ⟨hi, by simp [hfmt, classOf_named p hn, isKnown, hk, hd]⟩

/-- A known code with no datapath is of class FALLBACK (R221). -/
theorem NamedDecode.fallback (h : NamedDecode i n none) (hk : n ∈ p.knownFormats) : DecodesAs p i .fallback := by
  obtain ⟨hi, hfmt, hn, hd⟩ := h
  exact ⟨hi, by simp [hfmt, classOf_named p hn, isKnown, hk, hd]⟩

theorem decodesAs_custom {fmt : Word64} (h : 2 ^ 32 ≤ fmt.toNat) : DecodesAs p (.decodeFallbackCustom fmt) .fallback :=
  ⟨by simpa [isDecodeCommand, Instr.wellFormed, encodeCmd] using h, classOf_custom p h⟩

/-- The codes with a datapath are among the named ones (R72). -/
theorem datapathOf_of_last_lt (h : lastNamedFormat < n) : datapathOf n = none := by
  rw [lastNamedFormat] at h
  unfold datapathOf
  split
  case h_12 => rfl
  all_goals omega

/-- A known code with no row is of class FALLBACK (90_conflicts.md C8, log 15). -/
theorem decodesAs_unsupported {code : Word32} (h : lastNamedFormat < code.toNat) (hk : code.toNat ∈ p.knownFormats) :
    DecodesAs p (.decodeUnsupported code) .fallback := by
  have hfmt : encodeFmt (.decodeUnsupported code) = BitVec.ofNat 64 code.toNat := by
    refine BitVec.eq_of_toNat_eq ?_
    rw [encodeFmt, BitVec.toNat_append, BitVec.toNat_ofNat, Nat.mod_eq_of_lt (by have := code.isLt; omega)]
    simp
  have hi : isDecodeCommand (.decodeUnsupported code) = true := by
    simpa [isDecodeCommand, Instr.wellFormed, encodeCmd] using h
  exact NamedDecode.fallback ⟨hi, hfmt, code.isLt, datapathOf_of_last_lt h⟩ hk

end

/-! ## O19: null arguments -/

/-- An argument is null where one of the two bits of `CTRL` is 0 (R34, R222). -/
theorem argumentsPresent_eq_false {c : Word32} (h : c.getLsbD 0 = false ∨ c.getLsbD 1 = false) :
    argumentsPresent c = false := by
  rw [← Bool.not_eq_true, argumentsPresent_iff]
  rintro ⟨htgt, hreg⟩
  rcases h with h | h
  · cases htgt.symm.trans h
  · cases hreg.symm.trans h

/-- Settles O19: the entry reads `CTRL` and ends the command there. -/
theorem nullArgumentsReturnFalse : Obligations.NullArgumentsReturnFalse := by
  intro i s c hi hc hnull
  have hentry := decodeEntry_null s.params (encodeFmt i) hc (argumentsPresent_eq_false hnull)
  exact (exec_decode hi s).trans (decodeCommand_of_ok (decodeProcedure_null hentry))

/-! ## O20: unwritten registers -/

/-- A DECODE raises what its entry raises. -/
theorem exec_of_decodeEntry_raise {i : Instr} {s : State} {e : ErrorKind} (hi : isDecodeCommand i = true)
    (h : decodeEntry s.params (encodeFmt i) s.unit = .error (.raise e)) :
    exec i s = .next (s.raised true e.status e.info) := by
  rw [exec_decode hi, ← State.raise_eq_raised]
  exact decodeCommand_of_raise (decodeProcedure_error h)

/-- The ids of the registers of the entry (R257). -/
theorem entryRegisters_code : ∀ k < 8,
    (RegId.config (entryRegisters.getD k .ctrl)).code = ([5, 6, 13, 14, 15, 16, 17, 18] : List Byte).getD k 0 := by
  decide

/-- The reads of the entry raise for register `k` of the list, where those before it are written (R259). -/
theorem readGeometry_unset_at {u : DecodeUnit} {k : Nat} (hk : k < 8)
    (hpre : ∀ j, j < k → u.config (entryRegisters.getD j .ctrl) ≠ none)
    (hunset : u.config (entryRegisters.getD k .ctrl) = none) :
    readGeometry u = .error (.raise (.unsetConfig (.config (entryRegisters.getD k .ctrl)))) := by
  have hlen : k < entryRegisters.length := hk
  have hsplit : entryRegisters =
      entryRegisters.take k ++ entryRegisters.getD k .ctrl :: entryRegisters.drop (k + 1) := by
    rw [List.getD_eq_getElem _ _ hlen, List.getElem_cons_drop, List.take_append_drop]
  refine readGeometry_unset hsplit (fun q hq => ?_) hunset
  obtain ⟨j, hj, rfl⟩ := List.mem_take_iff_getElem.mp hq
  have hwritten := hpre j (by omega)
  rwa [List.getD_eq_getElem _ _ (by omega)] at hwritten

/-- Settles O20: `CTRL`, then `FMT`, then the registers of the geometry. -/
theorem decodeRaisesForUnsetRegister : Obligations.DecodeRaisesForUnsetRegister := by
  intro i s hi
  refine ⟨fun hctrl => ?ctrl,
    fun c hctrl htgt hreg => ⟨fun hfmt => ?fmt, fun hfmt hknown k hk hpre hunset => ?register⟩⟩
  case ctrl => exact exec_of_decodeEntry_raise hi (decodeEntry_ctrl_unset _ _ hctrl)
  all_goals have hpresent := (argumentsPresent_iff c).mpr ⟨htgt, hreg⟩
  case fmt => exact exec_of_decodeEntry_raise hi (decodeEntry_fmt_unset _ _ hctrl hpresent hfmt)
  case register =>
    rw [← entryRegisters_code k hk]
    refine exec_of_decodeEntry_raise hi (e := .unsetConfig (.config (entryRegisters.getD k .ctrl))) ?_
    rw [decodeEntry_region _ _ hctrl hpresent hfmt hknown.classOf_ne_unknown]
    exact entryRegion_error _ (readGeometry_unset_at hk hpre hunset)

/-! ## O22: the empty region -/

theorem clip_of_empty {g : Geometry}
    (h : min (g.regX + g.regW) g.texW ≤ max g.regX 0 ∨ min (g.regY + g.regH) g.texH ≤ max g.regY 0) : clip g = none :=
  if_pos h

/-- The completion of a DECODE as the statements write it. -/
theorem State.complete_eq_decodeDone (s : State) (ts : List (Nat × List (Nat × Word32))) (k : Completion) :
    (s.withTargets ts).complete (some true) k = s.decodeDone ts k.status := rfl

/-- A DECODE of an empty region completes with the `STATUS` of its class (R220, R224). -/
theorem DecodesAs.exec_empty {s : State} {i : Instr} {c : FormatClass} {g : Geometry} (h : DecodesAs s.params i c)
    (hc : c ≠ .unknown) (hr : EntryReady s.unit g) (hempty : clip g = none) :
    exec i s = .next (s.decodeDone s.targets (emptyRegionCompletion c).status) := by
  obtain ⟨hi, rfl⟩ := h
  have hentry : decodeEntry s.params (encodeFmt i) s.unit = .ok (.emptyRegion (classOf s.params (encodeFmt i))) := by
    rw [hr.decodeEntry_eq hc, entryRegion_eq _ hr.readGeometry_eq, hempty]
  rw [exec_decode hi, decodeCommand_of_ok (decodeProcedure_empty hentry), complete_proceed,
    ← State.complete_eq_decodeDone]
  rfl

/-- Settles O22, class by class. -/
theorem emptyRegionCompletes : Obligations.EmptyRegionCompletes := by
  intro s g hr hempty
  have hclip := clip_of_empty hempty
  have hfallback {i : Instr} (h : DecodesAs s.params i .fallback) : exec i s = .next (s.decodeDone s.targets 3) :=
    h.exec_empty (by simp) hr hclip
  refine ⟨fun p hp hk => ?dxt, fun p hp hk => ?pvrtc, fun p hp hk => ?etc, fun p hp hk => ?named,
    fun fmt hfmt => ?custom, fun code hcode hk => ?unsupported⟩
  case dxt => exact ((dxtDecodes_named p hp).dxt hk).exec_empty (by simp) hr hclip
  case pvrtc => exact ((pvrtcDecodes_named p hp).pvrtc hk).exec_empty (by simp) hr hclip
  case etc =>
    have hclass := (etcDecodes_named p hp).etc hk
    cases hrouted : s.params.etcRouted with
    | true =>
      rw [hrouted] at hclass
      exact hclass.exec_empty (by simp) hr hclip
    | false =>
      rw [hrouted] at hclass
      exact hfallback hclass
  case named => exact hfallback ((fallbackDecodes_named p hp).fallback hk)
  case custom => exact hfallback (decodesAs_custom hfmt)
  case unsupported => exact hfallback (decodesAs_unsupported hcode hk)

end Sys2Proof.Machine
end

section
/-! PROOF. O26, O27, O28 and O32: the pixels of a DECODE. A DXT and an ETC DECODE take each pixel from the tile that the
BLOCK of their class computes, and a PVRTC DECODE that misses takes each pixel from the tile of a quad; so what a DECODE
writes and what a BLOCK leaves in its latch are one pixel formula. -/

namespace Sys2Proof.Machine

/-! ## The tiles -/

theorem tileAt_map_range (pixel : Nat → Pixel) {n i : Nat} (h : i < n) :
    tileAt ((List.range n).map pixel) i = pixel i := by
  simp [tileAt, List.getD_eq_getElem?_getD, h]

/-- An entry of an ETC tile is the pixel at its column and row (R159). -/
theorem tileAt_etcTile (f : EtcFormat) (b : List Byte) {x y : Nat} (hx : x < 4) (hy : y < 4) :
    tileAt (etcTile f b) (4 * y + x) = etcPixel f b x y := by
  rw [etcTile, tileAt_map_range _ (by omega), show (4 * y + x) % 4 = x by omega, show (4 * y + x) / 4 = y by omega]

/-! ## O26 and O27: the block decoders -/

/-- The classes whose DECODE walks blocks of 4 by 4 pixels (R226, R228). -/
def FormatClass.WalksBlocks (c : FormatClass) : Prop := (∃ f, c = .dxt f) ∨ ∃ f, c = .etc f

theorem FormatClass.WalksBlocks.ne_unknown {c : FormatClass} (h : c.WalksBlocks) : c ≠ .unknown := by
  rcases h with ⟨f, rfl⟩ | ⟨f, rfl⟩ <;> simp

/-- Such a DECODE walks blocks of the bytes and with the tile that the BLOCK of its class uses (R229). -/
theorem FormatClass.WalksBlocks.decodeFamily_eq {c : FormatClass} (h : c.WalksBlocks) (g : Geometry) (r : Rect)
    (s : State) : decodeFamily c g r s = decodeBlocks c.latchBytes (blockTile c) g r s := by
  rcases h with ⟨f, rfl⟩ | ⟨f, rfl⟩ <;> rfl

/-- The pixel that the block covering texture position `(x, y)` has there, in a class that walks blocks (R226). -/
def walkedPixel (u : DecodeUnit) (c : FormatClass) (texW x y : Nat) : Pixel :=
  tileAt (blockTile c (blockBytesAt u texW c.latchBytes x y)) (4 * (y % 4) + x % 4)

theorem walkedPixel_dxt (u : DecodeUnit) (f : DxtFormat) (texW x y : Nat) :
    walkedPixel u (.dxt f) texW x y = dxtPixel f (blockBytesAt u texW f.blockBytes x y) (4 * (y % 4) + x % 4) :=
  tileAt_dxtTile f _ (by omega)

theorem walkedPixel_etc (u : DecodeUnit) (f : EtcFormat) (texW x y : Nat) :
    walkedPixel u (.etc f) texW x y = etcPixel f (blockBytesAt u texW f.blockBytes x y) (x % 4) (y % 4) :=
  tileAt_etcTile f _ (by omega) (by omega)

section
variable {s : State} {i : Instr} {c : FormatClass} {g : Geometry} {r : Rect} (h : DecodesAs s.params i c)
  (hr : RegionReady s.unit g r)
include h hr

/-- A DECODE whose family procedure leaves the writes of the region to be made writes the region, and completes. -/
theorem DecodesAs.exec_writes (hc : c ≠ .unknown) {pixel : Nat → Nat → Pixel} {k : Completion}
    (hfamily : ∃ cur ws, decodeFamily c g r (s.withUnit (s.unit.withWrites [])) =
        .ok ((s.withUnit (s.unit.withWrites [])).pending cur ws none k) ∧
      RegionWrites (s.unit.withWrites []) g r pixel ws) :
    ∃ ts, exec i s = .next (s.decodeDone ts k.status) ∧ WritesTarget s ts g r pixel := by
  obtain ⟨cur, ws, hok, hws⟩ := hfamily
  have hentry := decodeEntry_ready s.params (encodeFmt i) hr (by rwa [h.classOf_eq])
  rw [h.classOf_eq] at hentry
  refine ⟨writeTargets s.targets s.unit.binding ws, ?_, writeTargets_writesTarget hr.fitsW hws.exact⟩
  rw [h.exec_eq, decodeCommand_of_ok ((decodeProcedure_run hentry).trans hok), pending_finish]
  rfl

/-- The block decoders write each pixel of the region from the block that covers it (R226, R228). -/
theorem DecodesAs.exec_blocks (hc : c.WalksBlocks) (hb : BlocksReady s.unit g r c.latchBytes) :
    ∃ ts, exec i s = .next (s.decodeDone ts 0) ∧ WritesTarget s ts g r (walkedPixel s.unit c g.texW) := by
  obtain ⟨len, hlen, hreach⟩ := hb
  refine h.exec_writes hr hc.ne_unknown (k := .ok) ?_
  rw [hc.decodeFamily_eq]
  exact decodeBlocks_of_reach (hr.withWrites []) rfl c.latchBytes (blockTile c) hlen hreach

end

/-- Settles O26: a known DXT code is of its format's class, whose tile gives the pixels. -/
theorem dxtDecodeWritesRegion : Obligations.DxtDecodeWritesRegion := by
  intro p hp s g r hr hk hb
  simp only [← walkedPixel_dxt]
  exact ((dxtDecodes_named p hp).dxt hk).exec_blocks hr (.inl ⟨_, rfl⟩) hb

/-- Settles O27: so is a known ETC code where ETC is routed. -/
theorem etcDecodeWritesRegion : Obligations.EtcDecodeWritesRegion := by
  intro p hp s g r hr hk hrouted hb
  have hclass := (etcDecodes_named p hp).etc hk
  rw [if_pos hrouted] at hclass
  simp only [← walkedPixel_etc]
  exact hclass.exec_blocks hr (.inr ⟨_, rfl⟩) hb

/-! ## O28: the Fallback filler -/

theorem transparentBlack_pack : transparentBlack.pack = 0 := by decide

/-- The Fallback filler writes transparent black to the region (R231). -/
theorem DecodesAs.exec_fallback {s : State} {i : Instr} {g : Geometry} {r : Rect} (h : DecodesAs s.params i .fallback)
    (hr : RegionReady s.unit g r) :
    ∃ ts, exec i s = .next (s.decodeDone ts 3) ∧ WritesTarget s ts g r fun _ _ => transparentBlack :=
  h.exec_writes hr (by simp) (k := .unimplementedPixelFormat) (decodeFallback_eq (hr.withWrites []) rfl)

/-- Settles O28: each of the four kinds of DECODE is of class FALLBACK, and transparent black packs to the word 0. -/
theorem fallbackFillsRegion : Obligations.FallbackFillsRegion := by
  intro s g r hr i hi
  have hclass : DecodesAs s.params i .fallback := by
    rcases hi with ⟨p, hp, rfl, hk⟩ | ⟨p, hp, rfl, hk, hrouted⟩ | ⟨fmt, rfl, hfmt⟩ | ⟨code, rfl, hcode, hk⟩
    · exact (fallbackDecodes_named p hp).fallback hk
    · simpa [hrouted] using (etcDecodes_named p hp).etc hk
    · exact decodesAs_custom hfmt
    · exact decodesAs_unsupported hcode hk
  obtain ⟨ts, hend, ⟨hregion, hrest⟩, hothers⟩ := hclass.exec_fallback hr
  exact ⟨ts, hend, fun x y hxy => (hregion x y hxy).trans (congrArg some transparentBlack_pack), hrest, hothers⟩

/-! ## O32: DECODE and BLOCK -/

/-- A DECODE that writes `pixel` and a BLOCK that leaves the same pixel in entry `k` of its latch agree (R229). -/
theorem decode_block_agree {s t b b' : State} {i j : Instr} {g : Geometry} {r : Rect} {pixel : Nat → Nat → Pixel}
    {x y k : Nat} (hdecode : exec i s = .next t) (hwrites : WritesRegion s.target t.target g r pixel)
    (hxy : r.contains x y = true) (hblock : exec j b = .next b') (hk : k < 32)
    (hlatch : b'.unit.blkOut.get ⟨k, hk⟩ = some (pixel x y)) :
    ∃ t b' px, exec i s = .next t ∧ exec j b = .next b' ∧ b'.unit.blkOut[k]? = some (some px) ∧
      Memory.read t.target (y * g.tgtW + x) = some px.pack := by
  refine ⟨t, b', pixel x y, hdecode, hblock, ?_, hwrites.1 x y hxy⟩
  rw [Vector.getElem?_eq_getElem hk, ← hlatch]
  rfl

/-- The rows of the block formats are those of the DXT and of the ETC formats (R72). -/
theorem blockFormats_rows : ∀ q ∈ blockFormats,
    (∃ p ∈ dxtDecodes, ∃ p' ∈ dxtBlocks, p'.2 = p.2 ∧ q = (p.1, p'.1, p.2.1.blockBytes, p.2.2)) ∨
    ∃ p ∈ etcDecodes, ∃ p' ∈ etcBlocks, p'.2 = p.2 ∧ q = (p.1, p'.1, p.2.1.blockBytes, p.2.2) := by decide

theorem quadFormats_rows : ∀ q ∈ quadFormats,
    (q.1, q.2.2) ∈ pvrtcDecodes ∧ (q.2.1, q.2.2) ∈ pvrtcBlocks := by decide

theorem etcDecodes_routed : ∀ p ∈ etcDecodes, p.2.2 ∈ [6, 22, 23, 24] := by decide

/-- The four words of a quad in the latch (R74). -/
theorem latchQuad_append {p q r s : List Byte} (hp : p.length = 8) (hq : q.length = 8) (hr : r.length = 8)
    (hs : s.length = 8) : latchQuad (p ++ q ++ r ++ s) =
      { p := pvrtcWord p, q := pvrtcWord q, r := pvrtcWord r, s := pvrtcWord s } := by
  have hlast : byteSlice s 0 8 = s := List.take_of_length_le (by simp [hs])
  simp [latchQuad, byteSlice_append_front, byteSlice_append_past, hp, hq, hr, hlast]

@[simp] theorem payloadSlice_length (u : DecodeUnit) (a n : Nat) : (payloadSlice u a n).length = n := by
  simp [payloadSlice]

/-- The padded image has at each position the pixel of the quad whose four words cover it (R196, R229). -/
theorem imagePixel_eq_quadPixel (u : DecodeUnit) (ww nx ny x y : Nat) :
    imagePixel u ww nx ny x y =
      quadPixel ww (latchQuad (quadBytesAt u ww nx ny x y)) ((x + nx * ww - ww / 2) % ww) ((y + ny * 4 - 2) % 4) := by
  rw [quadBytesAt, latchQuad_append (payloadSlice_length ..) (payloadSlice_length ..) (payloadSlice_length ..)
    (payloadSlice_length ..)]
  rfl

/-- The column and the row of an entry of a tile whose rows are `w` wide. -/
theorem index_mod_div {w x : Nat} (hx : x < w) (y : Nat) : (y * w + x) % w = x ∧ (y * w + x) / w = y := by
  rw [Nat.mul_comm, Nat.mul_add_mod, Nat.mul_add_div (by omega), Nat.mod_eq_of_lt hx, Nat.div_eq_of_lt hx]
  exact ⟨rfl, rfl⟩

theorem PvrtcFormat.wordWidth_eq (f : PvrtcFormat) : f.wordWidth = 4 ∨ f.wordWidth = 8 := by
  cases f <;> simp [PvrtcFormat.wordWidth]

/-- A latch that holds the tile of the quad over `(x, y)` holds the image's pixel in the entry of `(x, y)` (R191). -/
theorem latch_imagePixel {ww : Nat} (hww : ww = 4 ∨ ww = 8) (u : DecodeUnit) (nx ny x y : Nat)
    {o old : Vector (Option Pixel) 32}
    (ho : ∀ k : Fin 32, o.get k =
      if k.val < ww * 4 then
        some (quadPixel ww (latchQuad (quadBytesAt u ww nx ny x y)) (k.val % ww) (k.val / ww))
      else old.get k) :
    ∃ hk : (y + ny * 4 - 2) % 4 * ww + (x + nx * ww - ww / 2) % ww < 32,
      o.get ⟨_, hk⟩ = some (imagePixel u ww nx ny x y) := by
  have hcolumn : (x + nx * ww - ww / 2) % ww < ww := Nat.mod_lt _ (by omega)
  have hentry := index_lt hcolumn (Nat.mod_lt (y + ny * 4 - 2) (show 4 > 0 by decide))
  obtain ⟨hmod, hdiv⟩ := index_mod_div hcolumn ((y + ny * 4 - 2) % 4)
  refine ⟨by omega, ?_⟩
  rw [ho, if_pos hentry, hmod, hdiv, imagePixel_eq_quadPixel]

/-- Settles O32: the pixel formulas of the DECODE commands (O26, O27, O29) are those of the BLOCK commands
(O33, O34, O35). -/
theorem blockEquivalence : Obligations.BlockEquivalence := by
  refine ⟨fun q hq s b g r x y hr hk hroute hb hxy hkb hf hl => ?blocks,
    fun q hq s b g r id x y hr hk hi hmiss hxy hkb hf hl => ?quads⟩
  case blocks =>
    have hentry : 4 * (y % 4) + x % 4 < 16 := by omega
    rcases blockFormats_rows q hq with ⟨p, hp, p', hp', hpair, rfl⟩ | ⟨p, hp, p', hp', hpair, rfl⟩
    · obtain ⟨ts, hdecode, hwrites, -⟩ := dxtDecodeWritesRegion p hp s g r hr hk hb
      obtain ⟨o, hblock, ho⟩ := dxtBlockWritesLatch p' hp' b _ hf (hpair ▸ hkb) (hpair ▸ hl)
      refine decode_block_agree hdecode hwrites hxy hblock (by omega) ?_
      exact (ho _).trans (by rw [if_pos hentry, hpair])
    · obtain ⟨ts, hdecode, hwrites, -⟩ :=
        etcDecodeWritesRegion p hp s g r hr hk (hroute (etcDecodes_routed p hp)) hb
      obtain ⟨o, hblock, ho⟩ := etcBlockWritesLatch p' hp' b _ hf (hpair ▸ hkb) (hpair ▸ hl)
      refine decode_block_agree hdecode hwrites hxy hblock (by omega) ?_
      have hcolumn : (4 * (y % 4) + x % 4) % 4 = x % 4 := by omega
      have hrow : (4 * (y % 4) + x % 4) / 4 = y % 4 := by omega
      exact (ho _).trans (by rw [if_pos hentry, hcolumn, hrow, hpair])
  case quads =>
    obtain ⟨hp, hp'⟩ := quadFormats_rows q hq
    obtain ⟨ts, bm, hdecode, -, -, -, hwrites, -⟩ := pvrtcMissDecodesImage _ hp s g r id hr hk hi hmiss
    obtain ⟨o, hblock, ho⟩ := pvrtcBlockWritesLatch _ hp' b _ hf hkb hl
    obtain ⟨hk, hlatch⟩ := latch_imagePixel q.2.2.1.wordWidth_eq s.unit _ _ x y ho
    exact decode_block_agree hdecode hwrites hxy hblock hk hlatch

end Sys2Proof.Machine
end

section
/-! PROOF. O12, O15 and O38: what a command keeps. How a command ends is said once (`CommandOutcome`), with what it may
change and the report that a DECODE and the other commands write; O12 also needs the steps of a command in progress and
each access of the host. -/

namespace Sys2Proof.Machine

/-! ## How a command ends (R235, R250, R253) -/

/-- The `RESULT` and the `STATUS` that a completion writes: a DECODE reports a null argument, and only that, by
`RESULT = 0`; another command leaves `RESULT` and reports `OK` (R235, R255, R258). -/
structure WrittenReport (isDecode : Bool) (r : Option Bool) (k : Completion) : Prop where
  decode : isDecode = true → r = some (decide (k ≠ .invalidDecodeArguments))
  other : isDecode = false → r = none ∧ k = .ok

/-- `t` is `s` after the effects of a command: `BLK_OUT`, the target memory of the unit's own binding, and the cache may
differ. -/
structure State.OwnEffects (s t : State) : Prop where
  unit : ∃ o, t.unit = s.unit.withBlkOut o
  peers : t.peers = s.peers
  unitId : t.unitId = s.unitId
  params : t.params = s.params
  host : t.host = s.host
  targets : ∀ b, b ≠ s.unit.binding → targetOf t.targets b = targetOf s.targets b

theorem State.OwnEffects.refl (s : State) : s.OwnEffects s :=
  ⟨⟨s.unit.blkOut, rfl⟩, rfl, rfl, rfl, rfl, fun _ _ => rfl⟩

section
variable {s t : State} (h : s.OwnEffects t)
include h

theorem State.OwnEffects.payload : t.unit.payload = s.unit.payload := by
  obtain ⟨o, ho⟩ := h.unit
  rw [ho, DecodeUnit.withBlkOut_payload]

theorem State.OwnEffects.binding : t.unit.binding = s.unit.binding := by
  obtain ⟨o, ho⟩ := h.unit
  rw [ho, DecodeUnit.withBlkOut_binding]

theorem State.OwnEffects.result : t.unit.result = s.unit.result := by
  obtain ⟨o, ho⟩ := h.unit
  rw [ho, DecodeUnit.withBlkOut_result]

theorem State.OwnEffects.faultSeen : t.unit.faultSeen = s.unit.faultSeen := by
  obtain ⟨o, ho⟩ := h.unit
  rw [ho, DecodeUnit.withBlkOut_faultSeen]

end

theorem State.OwnEffects.withBlkOut (s : State) (o : Vector (Option Pixel) 32) :
    s.OwnEffects (s.withUnit (s.unit.withBlkOut o)) := { State.OwnEffects.refl s with unit := ⟨o, rfl⟩ }

theorem State.OwnEffects.writes (s : State) (ws : List (Nat × Word32)) :
    s.OwnEffects (s.withTargets (writeTargets s.targets s.unit.binding ws)) :=
  { State.OwnEffects.refl s with
    targets := fun b hb => (targetOf_writeTargets ws s.targets s.unit.binding b).trans (if_neg hb) }

theorem State.OwnEffects.withCache {s t : State} (h : s.OwnEffects t) (c : List CacheEntry) :
    s.OwnEffects (t.withCache c) := { h with }

theorem State.OwnEffects.withGapOps {s t : State} (h : s.OwnEffects t) (ops : List CacheOp) :
    s.OwnEffects (t.withGapOps ops) := { h with }

/-- How a command ends, a DECODE where `isDecode`: it raises in the state it began in, or completes after its
effects. -/
inductive CommandOutcome (isDecode : Bool) (s : State) : State → Prop where
  | raises {e : ErrorKind} : legalOutcome e.status e.info = true → CommandOutcome isDecode s (s.raise isDecode e)
  | completes {t : State} {r : Option Bool} {k : Completion} :
      s.OwnEffects t → WrittenReport isDecode r k → CommandOutcome isDecode s (t.complete r k)

/-- The completions of a DECODE that has its arguments. -/
theorem WrittenReport.of_decoded {k : Completion} (h : k = .ok ∨ k = .unimplementedPixelFormat) :
    WrittenReport true (some true) k := by
  rcases h with rfl | rfl <;> exact ⟨fun _ => rfl, by simp⟩

theorem WrittenReport.ok : WrittenReport false none .ok := ⟨by simp, fun _ => ⟨rfl, rfl⟩⟩

/-- A PVRTC DECODE that completes, as a completion after its effects. -/
theorem imageDone_eq_complete (s : State) (ts : List (Nat × List (Nat × Word32))) (d : List CacheEntry) :
    s.imageDone ts d = (((s.withTargets ts).withCache d).withGapOps []).complete (some true) .ok := rfl

theorem decodeCommand_outcome {f : Word64} {s t : State} (h : decodeCommand f s = .next t) :
    CommandOutcome true s t := by
  rcases decodeCommand_cases f s with ⟨e, he, hl⟩ | he | ⟨k, hk, he⟩ | ⟨ws, code, hcode, he⟩ | ⟨id, ws, d, -, he, -⟩ |
    he <;> rw [he] at h <;> cases h
  · exact .raises hl
  · exact .completes (.refl s) ⟨fun _ => rfl, by simp⟩
  · exact .completes (.refl s) (.of_decoded hk)
  · obtain ⟨k, hk, rfl⟩ : ∃ k : Completion, (k = .ok ∨ k = .unimplementedPixelFormat) ∧ k.status = code := by
      rcases hcode with rfl | rfl
      · exact ⟨.ok, .inl rfl, rfl⟩
      · exact ⟨.unimplementedPixelFormat, .inr rfl, rfl⟩
    rw [← State.complete_eq_decodeDone]
    exact .completes (.writes s ws) (.of_decoded hk)
  · rw [imageDone_eq_complete]
    exact .completes (((State.OwnEffects.writes s ws).withCache d).withGapOps []) (.of_decoded (.inl rfl))

theorem blockCommand_outcome {f : Word64} {s t : State} (h : blockCommand f s = .next t) :
    CommandOutcome false s t := by
  rcases blockProcedure_cases f s with ⟨-, he⟩ | ⟨-, -, he⟩ | ⟨c, -, -, he | ⟨bytes, -, he⟩⟩ <;>
    rw [blockCommand, he] at h <;> cases h
  · exact .raises rfl
  · exact .raises rfl
  · exact .raises rfl
  · rw [← complete_block]
    exact .completes (.withBlkOut s _) .ok

/-- The commands by their `CMD` words: DECODE, BLOCK, FLUSH, or a word that is none of them (R70). -/
theorem encodeCmd_cases (i : Instr) : encodeCmd i = 0 ∨ encodeCmd i = 1 ∨ i = .flush ∨ ∃ w, i = .illegalCmd w := by
  cases i <;> simp [encodeCmd]

theorem isDecodeCommand_eq {i : Instr} (h : i.wellFormed = true) : isDecodeCommand i = (encodeCmd i == 0) := by
  simp [isDecodeCommand, h]

/-- Every well-formed command that answers a next state ends so. -/
theorem exec_outcome {i : Instr} {s t : State} (hi : i.wellFormed = true) (h : exec i s = .next t) :
    CommandOutcome (isDecodeCommand i) s t := by
  rcases encodeCmd_cases i with hcmd | hcmd | rfl | ⟨w, rfl⟩
  · have hdecode : isDecodeCommand i = true := by simp [isDecodeCommand_eq hi, hcmd]
    rw [exec_decode hdecode] at h
    exact hdecode ▸ decodeCommand_outcome h
  · have hdecode : isDecodeCommand i = false := by simp [isDecodeCommand_eq hi, hcmd]
    have hblock : isBlockCommand i = true := by simp [isBlockCommand, hi, hcmd]
    rw [exec_block hblock] at h
    exact hdecode ▸ blockCommand_outcome h
  · cases h
    exact .completes ((State.OwnEffects.refl s).withCache []) .ok
  · have hdecode : isDecodeCommand (.illegalCmd w) = false := by
      have hw : 2 < w.toNat := of_decide_eq_true hi
      have hne : w ≠ 0 := by bv_omega
      simpa [isDecodeCommand_eq hi, encodeCmd] using hne
    cases h
    rw [hdecode]
    exact .raises rfl

/-! ## O15 -/

/-- What a command that ends keeps, and that it leaves the unit idle (R235). -/
structure KeptByCommand (s t : State) : Prop where
  payload : t.unit.payload = s.unit.payload
  peers : t.peers = s.peers
  unitId : t.unitId = s.unitId
  params : t.params = s.params
  host : t.host = s.host
  binding : t.unit.binding = s.unit.binding
  targets : ∀ b, b ≠ s.unit.binding → targetOf t.targets b = targetOf s.targets b
  idle : t.unit.idle = t.unit

theorem CommandOutcome.kept {d : Bool} {s t : State} (h : CommandOutcome d s t) : KeptByCommand s t := by
  cases h with
  | raises _ => exact ⟨rfl, rfl, rfl, rfl, rfl, rfl, fun _ _ => rfl, rfl⟩
  | completes heff _ =>
    exact ⟨heff.payload, heff.peers, heff.unitId, heff.params, heff.host, heff.binding, heff.targets, rfl⟩

theorem isRaiseStatus_of_raise (e : ErrorKind) : isRaiseStatus e.status = true := by cases e <;> rfl

theorem isRaiseStatus_of_completion (k : Completion) : isRaiseStatus k.status = false := by cases k <;> rfl

theorem legalOutcome_of_completion (k : Completion) : legalOutcome k.status 0 = true := by cases k <;> rfl

/-- Only a null argument has `STATUS = 4` (R258). -/
theorem Completion.status_eq_four_iff (k : Completion) : k.status = 4 ↔ k = .invalidDecodeArguments := by
  cases k <;> simp [Completion.status]

theorem CommandOutcome.legal {d : Bool} {s t : State} (h : CommandOutcome d s t) :
    legalOutcome t.unit.status t.unit.faultInfo = true := by
  cases h with
  | raises hlegal => exact hlegal
  | @completes t r k _ _ => exact legalOutcome_of_completion k

/-- Settles O15: how the command ends gives what it keeps and its report. -/
theorem everyCommandCompletesOrRaises : Obligations.EveryCommandCompletesOrRaises := by
  intro i s t hi h
  have hend := exec_outcome hi h
  have hkept := hend.kept
  obtain ⟨hcmd, hcursor, -⟩ := DecodeUnit.idle_eq_iff.mp hkept.idle
  refine ⟨hkept.payload, hkept.peers, hkept.unitId, hkept.params, hkept.host, hkept.binding, hkept.targets, hcmd,
    hcursor, hkept.idle, hend.legal, ?report⟩
  generalize isDecodeCommand i = d at hend ⊢
  cases hend with
  | @raises e _ => exact .inr ⟨isRaiseStatus_of_raise e, rfl, rfl⟩
  | @completes t r k heff hreport =>
    refine .inl ⟨isRaiseStatus_of_completion k, rfl, heff.faultSeen, fun hd => ?_, fun hd => ?_⟩
    · obtain rfl := hreport.decode hd
      exact decide_eq_decide.mpr (not_congr k.status_eq_four_iff.symm)
    · obtain ⟨rfl, rfl⟩ := hreport.other hd
      exact ⟨rfl, heff.result⟩

/-! ## O12: the configuration registers -/

/-- `v` holds the configuration registers of `u` (R24 to R34). -/
structure DecodeUnit.KeepsConfig (u v : DecodeUnit) : Prop where
  fmt : v.fmt = u.fmt := by rfl
  config : ∀ r, v.config r = u.config r := by intro r; cases r <;> rfl

theorem DecodeUnit.KeepsConfig.refl (u : DecodeUnit) : u.KeepsConfig u := ⟨rfl, fun _ => rfl⟩

theorem DecodeUnit.KeepsConfig.trans {u v w : DecodeUnit} (h : u.KeepsConfig v) (h' : v.KeepsConfig w) :
    u.KeepsConfig w := ⟨h'.fmt.trans h.fmt, fun r => (h'.config r).trans (h.config r)⟩

/-- The end of a command keeps the registers and the latch of its operands. -/
theorem CommandEnd.keepsConfig {s t : State} (h : CommandEnd s t) :
    s.unit.KeepsConfig t.unit ∧ t.unit.blkIn = s.unit.blkIn := by
  cases h with
  | @raises d e _ => exact ⟨⟨rfl, s.unit.raise_config d e⟩, rfl⟩
  | @completes t' r k heff _ =>
    obtain ⟨o, ho⟩ := heff.unit
    have hcomplete : t'.unit.KeepsConfig (t'.complete r k).unit := ⟨rfl, t'.unit.complete_config r k⟩
    have heffects : s.unit.KeepsConfig t'.unit := ho ▸ ⟨rfl, s.unit.withBlkOut_config o⟩
    exact ⟨heffects.trans hcomplete, (congrArg DecodeUnit.blkIn ho :)⟩

/-- So does the start of a DECODE that is left in progress (R62). -/
theorem startDecode_keepsConfig {f : Word64} {s t : State} (h : startDecode f s = .next t) :
    s.unit.KeepsConfig t.unit := by
  rcases startDecode_next h with he | ⟨s', c, ws, e, k, -, hunit, -, rfl⟩
  · exact he.keepsConfig.1
  · rw [← hunit]
    exact {}

/-- So do the steps of a command in progress (R62, R63). -/
theorem proceed_keepsConfig (s : State) (p : Progress) : s.unit.KeepsConfig (s.proceed p).unit := by
  have hinsert : s.unit.KeepsConfig s.insertNow.unit := by
    rw [insertNow_unit]
    exact ⟨rfl, s.unit.withInsertion_config none⟩
  rcases proceed_cases s p with ⟨-, he⟩ | ⟨k, -, ⟨-, he⟩ | ⟨n, -, he⟩ | ⟨-, he⟩⟩ <;> rw [he]
  · exact .refl _
  · exact hinsert
  · rcases writeNow_cases s.insertNow n with ⟨-, hw⟩ | ⟨w, -, hw⟩ <;> rw [hw]
    · exact hinsert
    · exact hinsert.trans ⟨rfl, s.insertNow.unit.withWrites_config _⟩
  · exact hinsert.trans ⟨rfl, s.insertNow.unit.complete_config _ k⟩

theorem issue_keepsConfig (s : State) (w : Word32) : s.unit.KeepsConfig (issue s w).unit :=
  ⟨rfl, s.unit.withCmd_config w⟩

/-- The accesses that are no write of a register keep the registers. -/
theorem admittedAccess_keepsConfig {s t : State} {e : HostEvent} (he : keepsConfiguration e = true)
    (h : admittedAccess s e = .next t) : s.unit.KeepsConfig t.unit := by
  cases e with
  | setFmt v => cases he
  | set r v => cases he
  | loadPayload bytes => cases he
  | loadContainer buffer => cases he
  | select k => cases he
  | reset => cases he
  | read q =>
    rcases admittedAccess_read s q with hr | ⟨-, -, -, hr⟩ <;> rw [hr] at h <;> cases h
    exact .refl _
  | cmd w =>
    exact (issue_keepsConfig s w).trans (exec_next h).keepsConfig.1
  | start w =>
    rw [admittedAccess_start] at h
    split at h
    · exact (issue_keepsConfig s 0).trans (startDecode_keepsConfig h)
    · exact (issue_keepsConfig s w).trans (exec_next h).keepsConfig.1
  | proceed p =>
    cases h
    exact proceed_keepsConfig s p
  | writeBlkIn i v => cases h; exact {}
  | loadBlkIn bytes => cases h; exact {}
  | writePayload a v => cases h; exact {}
  | writeTarget i v => cases h; exact .refl _
  | gap ops => cases h; exact .refl _
  | bindTarget b => cases h; exact {}

/-- Settles O12: the end of a command, the two register writes, and the other accesses. -/
theorem configurationIsTheHosts : Obligations.ConfigurationIsTheHosts := by
  refine ⟨fun i s t h => ?command, fun s r v rest hh hc => ?set, fun s v rest hh hc => ?setFmt,
    fun s t e rest hh he h => ?access⟩
  case command =>
    obtain ⟨hkeeps, hlatch⟩ := (exec_next h).keepsConfig
    exact ⟨hkeeps.fmt, hkeeps.config, hlatch⟩
  case set =>
    refine ⟨_, step_of_idle hh hc, ?_, s.unit.setConfig_fmt r v, fun q hq => ?_⟩
    · exact congrArg valueOf (s.unit.setConfig_config_same r v)
    · exact (s.unit.setConfig_config r q v).trans (if_neg hq)
  case setFmt =>
    refine ⟨_, step_of_idle hh hc, ?_, fun q => by cases q <;> rfl⟩
    exact congrArg HostValue.word (BitVec.setWidth_eq v)
  case access =>
    rw [turn_cons hh] at h
    have hkeeps := admittedAccess_keepsConfig he (admittedAccess_of_hostAccess_next h).1
    exact ⟨hkeeps.fmt, hkeeps.config⟩

/-! ## O38 -/

/-- Settles O38: FLUSH is a completion with an empty cache. -/
theorem flushClearsCache : Obligations.FlushClearsCache := fun _ => rfl

end Sys2Proof.Machine
end

section
/-! PROOF. O16, O21, O36, O37, O6, O7 and O58: the raises of a command, one kind after the other, and the two accesses that
keep every unit. Each raise stands in the entry of its command, before anything is written. -/

namespace Sys2Proof.Machine

/-! ## O16: a raise -/

/-- A command that ends with the `STATUS` of a raise has raised (R250, R253). -/
theorem CommandOutcome.eq_raised {d : Bool} {s t : State} (h : CommandOutcome d s t)
    (hs : isRaiseStatus t.unit.status = true) : t = s.raised d t.unit.status t.unit.faultInfo := by
  cases h with
  | raises _ => rfl
  | @completes t r k _ _ => exact absurd ((isRaiseStatus_of_completion k).symm.trans hs) (by simp)

/-- Settles O16, by how the command ends. -/
theorem raisesArePrecise : Obligations.RaisesArePrecise :=
  fun _ _ _ hi h => (exec_outcome hi h).eq_raised

/-! ## O21: unknown formats -/

/-- A format word that is not known is no custom one, and its code is not in `KNOWN_FORMATS` (R72, R73). -/
theorem bits_of_not_formatKnown {p : Config.Params} {fmt : Word64} (h : ¬ FormatKnown p fmt) :
    bits fmt 63 32 = 0 ∧ isKnown p (bits fmt 31 0) = false := by
  obtain ⟨hcustom, hcode⟩ := not_or.mp h
  have hfmt : fmt = BitVec.ofNat 64 fmt.toNat := by simp
  obtain ⟨hhi, hlo⟩ := bits_named (Nat.not_le.mp hcustom)
  rw [← hfmt] at hhi hlo
  exact ⟨hhi, by simpa [isKnown, hlo] using hcode⟩

theorem classOf_of_not_formatKnown {p : Config.Params} {fmt : Word64} (h : ¬ FormatKnown p fmt) :
    classOf p fmt = .unknown := by
  obtain ⟨hhi, hunknown⟩ := bits_of_not_formatKnown h
  simp [classOf, hhi, hunknown]

/-- A DECODE of a format that is not known raises once `CTRL` and `FMT` are read (R252). -/
theorem exec_of_not_formatKnown {i : Instr} {s : State} {c : Word32} (hi : isDecodeCommand i = true)
    (hc : s.unit.ctrl = some c) (htgt : c.getLsbD 0 = true) (hreg : c.getLsbD 1 = true) (hf : s.unit.fmt.isSome = true)
    (hk : ¬ FormatKnown s.params (encodeFmt i)) : exec i s = .next (s.raised true 2 0) :=
  exec_of_decodeEntry_raise hi (e := .unsupportedFormat)
    (decodeEntry_unknown _ _ hc ((argumentsPresent_iff c).mpr ⟨htgt, hreg⟩) hf (classOf_of_not_formatKnown hk))

theorem encodeFmt_decodeUnsupported_toNat (code : Word32) : (encodeFmt (.decodeUnsupported code)).toNat = code.toNat := by
  rw [encodeFmt, BitVec.toNat_append]
  simp

/-- The default `KNOWN_FORMATS` are the named codes, so they lack every code of `DECODE.UNSUPPORTED` (R7, R72). -/
theorem not_formatKnown_decodeUnsupported {p : Config.Params} {code : Word32} (hcode : 26 < code.toNat)
    (hp : p.knownFormats = List.range 27) : ¬ FormatKnown p (encodeFmt (.decodeUnsupported code)) := by
  have := code.isLt
  rw [FormatKnown, encodeFmt_decodeUnsupported_toNat, hp, List.mem_range]
  omega

/-- Settles O21: the entry raises at its format check. -/
theorem unknownFormatRaises : Obligations.UnknownFormatRaises := by
  refine ⟨fun i s c hi hc htgt hreg hf hk => exec_of_not_formatKnown hi hc htgt hreg hf hk,
    fun code s c hcode hp hc htgt hreg hf => ?_⟩
  have hlast : lastNamedFormat < code.toNat := hcode
  have hi : isDecodeCommand (.decodeUnsupported code) = true := by
    simpa [isDecodeCommand, Instr.wellFormed, encodeCmd] using hlast
  exact exec_of_not_formatKnown hi hc htgt hreg hf (not_formatKnown_decodeUnsupported hcode hp)

/-! ## O36: a BLOCK without its operands -/

/-- A BLOCK raises what its procedure raises. -/
theorem blockCommand_of_raise {fmt : Word64} {s : State} {e : ErrorKind}
    (h : blockProcedure fmt s = .error (.raise e)) : blockCommand fmt s = .next (s.raised false e.status e.info) := by
  rw [blockCommand, h, finish_raise, State.raise_eq_raised]

/-- The format is read first (R257, R260). -/
theorem blockCommand_fmt_unset (fmt : Word64) {s : State} (hf : s.unit.fmt = none) :
    blockCommand fmt s = .next (s.raised false 7 1) :=
  blockCommand_of_raise (e := .unsetConfig .fmt) (by simp [blockProcedure, readFmt_none hf, bind, Except.bind])

/-- A format with no block datapath is rejected next (R234, R256). -/
theorem blockCommand_no_datapath {fmt : Word64} {s : State} (hf : s.unit.fmt.isSome = true)
    (hc : blockClassOf s.params fmt = none) : blockCommand fmt s = .next (s.raised false 6 2) :=
  blockCommand_of_raise (e := .illegalBlock) (by simp [blockProcedure, readFmt_some hf, hc, bind, Except.bind])

/-- The latch bytes of the datapath are read last (R257, R260). -/
theorem blockCommand_latch_unset {fmt : Word64} {s : State} {c : FormatClass} (hf : s.unit.fmt.isSome = true)
    (hc : blockClassOf s.params fmt = some c) (hl : none ∈ s.unit.blkIn.toList.take c.latchBytes) :
    blockCommand fmt s = .next (s.raised false 7 20) :=
  blockCommand_of_raise (e := .unsetConfig .blkIn)
    (by simp [blockProcedure, readFmt_some hf, hc, readLatch_unwritten hl, bind, Except.bind])

/-- Settles O36: the first and the last check of the BLOCK entry. -/
theorem blockRaisesForUnsetLatch : Obligations.BlockRaisesForUnsetLatch := by
  refine ⟨fun i s hi hf => (exec_block hi s).trans (blockCommand_fmt_unset _ hf), fun s hf => ?latch⟩
  have hlatch {i : Instr} {n : Nat} {c : FormatClass}
      (hspec : n < 2 ^ 32 ∧ datapathOf n = some c ∧ ∀ s, exec i s = blockCommand (BitVec.ofNat 64 n) s)
      (hk : n ∈ s.params.knownFormats) (hl : none ∈ s.unit.blkIn.toList.take c.latchBytes) :
      exec i s = .next (s.raised false 7 20) := by
    obtain ⟨hcode, hdatapath, hexec⟩ := hspec
    rw [hexec]
    exact blockCommand_latch_unset hf ((blockClassOf_named hcode hk).trans hdatapath) hl
  exact ⟨fun p hp => hlatch (dxtBlocks_spec hp), fun p hp => hlatch (etcBlocks_spec hp),
    fun p hp => hlatch (pvrtcBlocks_spec hp)⟩

/-! ## O37: illegal commands -/

/-- The codes with a datapath are those of R234. -/
theorem datapathOf_of_not_mem {n : Nat} (h : n ∉ blockFormatCodes) : datapathOf n = none := by
  unfold datapathOf
  split
  case h_12 => rfl
  all_goals exact absurd (by decide) h

/-- A custom format, an unknown code and a code of no datapath each leave a BLOCK without one (R234). -/
theorem blockClassOf_eq_none {p : Config.Params} {fmt : Word64}
    (h : 2 ^ 32 ≤ fmt.toNat ∨ fmt.toNat ∉ p.knownFormats ∨ fmt.toNat ∉ blockFormatCodes) :
    blockClassOf p fmt = none := by
  by_cases hcustom : 2 ^ 32 ≤ fmt.toNat
  · exact if_pos ((bits_high fmt).mpr hcustom)
  have hn : fmt.toNat < 2 ^ 32 := Nat.not_le.mp hcustom
  have hfmt : fmt = BitVec.ofNat 64 fmt.toNat := by simp
  rw [hfmt]
  by_cases hk : fmt.toNat ∈ p.knownFormats
  · have hcode := (h.resolve_left hcustom).resolve_left (not_not.mpr hk)
    rw [blockClassOf_named hn hk, datapathOf_of_not_mem hcode]
  · exact blockClassOf_unknown hn hk

/-- A `CMD` write of 1 runs the BLOCK of the format that `FMT` holds (R70). -/
theorem exec_decodeWord_one (f : Word64) (s : State) : exec (decodeWord (f ++ (1 : Word32))) s = blockCommand f s := by
  have hdecode : decodeWord (f ++ (1 : Word32)) = blockOfFormat f := decodeWord_dispatchWord f 1
  have hblock : isBlockCommand (blockOfFormat f) = true := by
    simp [isBlockCommand, blockOfFormat_wellFormed, encodeCmd_blockOfFormat]
  rw [hdecode, exec_block hblock, encodeFmt_blockOfFormat]

/-- A `CMD` word past that of FLUSH is illegal, whatever `FMT` holds (R70). -/
theorem decodeWord_of_two_lt (f : Word64) {w : Word32} (h : 2 < w.toNat) : decodeWord (f ++ w) = .illegalCmd w := by
  have hdecode : decodeWord (f ++ w) = decodeCommandWord f w := decodeWord_dispatchWord f w
  have h0 : w ≠ 0 := by bv_omega
  have h1 : w ≠ 1 := by bv_omega
  have h2 : w ≠ 2 := by bv_omega
  rw [hdecode, decodeCommandWord, if_neg h0, if_neg h1, if_neg h2]

theorem exec_illegalCmd (w : Word32) (s : State) : exec (.illegalCmd w) s = .next (s.raised false 6 1) := rfl

/-- Settles O37: the words past FLUSH's, then the formats with no datapath. -/
theorem illegalCommandsRaise : Obligations.IllegalCommandsRaise := by
  refine ⟨fun s f w hw => ?word, fun s f hf hcode => ?block, fun s w => exec_illegalCmd w s,
    fun s f hwf hf => ?blockIllegal⟩
  case word =>
    have hlt : 2 < w.toNat := by omega
    rw [decodeWord_of_two_lt f hlt, exec_illegalCmd]
  case block =>
    rw [exec_decodeWord_one]
    exact blockCommand_no_datapath (by simp [hf]) (blockClassOf_eq_none hcode)
  case blockIllegal =>
    have hcode : f.toNat ∉ blockFormatCodes := by simpa [Instr.wellFormed] using hwf
    exact blockCommand_no_datapath hf (blockClassOf_eq_none (.inr (.inr hcode)))

/-! ## O6: commands without a format -/

/-- A `CMD` write of 0 runs the DECODE of the format that `FMT` holds (R70). -/
theorem exec_decodeWord_zero (f : Word64) (s : State) :
    exec (decodeWord (f ++ (0 : Word32))) s = decodeCommand f s := by
  have hdecode : decodeWord (f ++ (0 : Word32)) = decodeOfFormat f := decodeWord_dispatchWord f 0
  rw [hdecode, exec_decode (decodeOfFormat_isDecode f), encodeFmt_decodeOfFormat]

/-- While `FMT` is unwritten a DECODE ends in the entry, before the format word counts (R257, R259). -/
theorem decodeCommand_fmt_unset {s : State} (hf : s.unit.fmt = none) (f f' : Word64) :
    decodeCommand f s = decodeCommand f' s := by
  rcases hc : s.unit.ctrl with _ | c
  · rw [decodeCommand_of_raise (decodeProcedure_error (decodeEntry_ctrl_unset _ f hc)),
      decodeCommand_of_raise (decodeProcedure_error (decodeEntry_ctrl_unset _ f' hc))]
  cases ha : argumentsPresent c with
  | false =>
    rw [decodeCommand_of_ok (decodeProcedure_null (decodeEntry_null _ f hc ha)),
      decodeCommand_of_ok (decodeProcedure_null (decodeEntry_null _ f' hc ha))]
  | true =>
    rw [decodeCommand_of_raise (decodeProcedure_error (decodeEntry_fmt_unset _ f hc ha hf)),
      decodeCommand_of_raise (decodeProcedure_error (decodeEntry_fmt_unset _ f' hc ha hf))]

/-- While `FMT` is unwritten no command depends on the format half of its dispatch word (log 1). -/
theorem exec_decodeWord_fmt_unset {s : State} (hf : s.unit.fmt = none) (f f' : Word64) (w : Word32) :
    exec (decodeWord (f ++ w)) s = exec (decodeWord (f' ++ w)) s := by
  by_cases h0 : w = 0
  · rw [h0, exec_decodeWord_zero, exec_decodeWord_zero]
    exact decodeCommand_fmt_unset hf f f'
  by_cases h1 : w = 1
  · rw [h1, exec_decodeWord_one, exec_decodeWord_one, blockCommand_fmt_unset f hf, blockCommand_fmt_unset f' hf]
  · have hdecode (f : Word64) : decodeWord (f ++ w) = if w = 2 then .flush else .illegalCmd w := by
      refine (decodeWord_dispatchWord f w).trans ?_
      rw [decodeCommandWord, if_neg h0, if_neg h1]
    rw [hdecode, hdecode]

/-- Settles O6: no command depends on the half, and the step takes 0 for it. -/
theorem unwrittenFmtChoosesNothing : Obligations.UnwrittenFmtChoosesNothing := by
  refine fun s w hf => ⟨fun f f' => exec_decodeWord_fmt_unset hf f f' w, fun rest hh hc => ?_⟩
  have hfmt : dispatchFmt (s.withHost rest).unit = 0 := by simp [dispatchFmt, hf]
  rw [step_of_idle hh hc, admittedAccess_cmd, hfmt]
  rfl

/-! ## O7 and O58: what keeps every unit -/

/-- Settles O7. -/
theorem idleStepKeepsState : Obligations.IdleStepKeepsState := fun _ => turn_idle

/-- Settles O58, by the unit that the host turns to: its own, another, or none. -/
theorem selectKeepsEveryUnit : Obligations.SelectKeepsEveryUnit := by
  intro s t k rest hn hh h
  rw [step_of_free hh rfl, admittedAccess_select] at h
  rcases selectUnit_cases (s.withHost rest) k with ⟨rfl, he⟩ | ⟨hk, u, hu, he⟩ | ⟨-, -, he⟩ <;> rw [he] at h
  · cases h
    exact ⟨rfl, fun _ => rfl, rfl, rfl, rfl⟩
  · cases h
    exact ⟨rfl, unitOf_select hn hk hu, rfl, rfl, rfl⟩
  · cases h

end Sys2Proof.Machine
end

section
/-! PROOF. O51 and O52: the cache device. What a lookup and an insertion do to the entries is said for distinct keys; what
they do to the keys follows, and the last eight by induction on the insertions. -/

namespace Sys2Proof.Machine

/-! ## O51: one operation -/

/-- A lookup that misses changes nothing (R262). -/
theorem cacheLookup_of_not_mem {c : List CacheEntry} {k : Word32} (h : k ∉ cacheKeys c) : cacheLookup c k = (none, c) := by
  rw [cacheLookup, cacheFind_none_iff.mpr h]

/-- A lookup that hits moves the entry to the most recently used end (R262). -/
theorem cacheLookup_of_mem {c : List CacheEntry} (hd : (cacheKeys c).Nodup) {e : CacheEntry} (he : e ∈ c) :
    cacheLookup c e.key = (some e.bitmap, c.filter (fun d => d.key ≠ e.key) ++ [e]) := by
  rw [cacheLookup, cacheFind_of_mem hd he, cacheRemove_eq_filter hd]

/-- An insertion of a new key evicts the least recently used entry of a full cache (R263). -/
theorem cacheInsert_of_not_mem {c : List CacheEntry} {k : Word32} (h : k ∉ cacheKeys c) (bm : Bitmap) :
    cacheInsert c k bm = (if c.length = 8 then c.tail else c) ++ [{ key := k, bitmap := bm }] := by
  rw [cacheInsert, cacheFind_none_iff.mpr h, List.drop_one]
  rfl

/-- An insertion of a key of the cache replaces its entry (R263). -/
theorem cacheInsert_of_mem {c : List CacheEntry} (hd : (cacheKeys c).Nodup) {k : Word32} (h : k ∈ cacheKeys c)
    (bm : Bitmap) : cacheInsert c k bm = c.filter (fun d => d.key ≠ k) ++ [{ key := k, bitmap := bm }] := by
  obtain ⟨e, he, rfl⟩ := List.mem_map.mp h
  rw [cacheInsert, cacheFind_of_mem hd he, cacheRemove_eq_filter hd]

/-- Settles O51: a hit, a miss, and the two kinds of insertion. -/
theorem insertEvictsLeastRecentlyUsed : Obligations.InsertEvictsLeastRecentlyUsed := by
  refine ⟨fun c k hd => ⟨?hit, cacheLookup_of_not_mem⟩, fun c k bm hd => ?insert⟩
  case hit =>
    rintro e he rfl
    exact cacheLookup_of_mem hd he
  case insert =>
    split
    · next hk => exact cacheInsert_of_mem hd hk bm
    · next hk => exact cacheInsert_of_not_mem hk bm

/-! ## O52: the keys after many operations -/

/-- The keys after an insertion of a new key (R263, R266). -/
theorem cacheKeys_cacheInsert_of_not_mem {c : List CacheEntry} {k : Word32} (h : k ∉ cacheKeys c) (bm : Bitmap) :
    cacheKeys (cacheInsert c k bm) = (if c.length = 8 then (cacheKeys c).tail else cacheKeys c) ++ [k] := by
  rw [cacheInsert_of_not_mem h, cacheKeys_append]
  split <;> simp [cacheKeys]

/-- An insertion of a new key after those of `l` keeps the last eight the last eight (R266). -/
theorem cacheKeys_cacheInsert_last_eight {c : List CacheEntry} {l : List Word32} {k : Word32}
    (hc : cacheKeys c = l.drop (l.length - 8)) (hk : k ∉ l) (bm : Bitmap) :
    cacheKeys (cacheInsert c k bm) = (l ++ [k]).drop (l.length + 1 - 8) := by
  have hnotin : k ∉ cacheKeys c := fun hin => hk (List.mem_of_mem_drop (hc ▸ hin))
  have hlength : c.length = l.length - (l.length - 8) := by rw [← cacheKeys_length, hc, List.length_drop]
  rw [cacheKeys_cacheInsert_of_not_mem hnotin, List.drop_append_of_le_length (by omega), hc]
  split
  · next hfull => rw [List.tail_drop, show l.length - 8 + 1 = l.length + 1 - 8 by omega]
  · next hfree => rw [show l.length - 8 = l.length + 1 - 8 by omega]

/-- Insertions of distinct keys leave the last eight, in their order (R266). -/
theorem cacheKeys_foldl_cacheInsert (ks : List (Word32 × Bitmap)) (hd : (ks.map Prod.fst).Nodup) :
    cacheKeys (ks.foldl (fun c p => cacheInsert c p.1 p.2) []) = (ks.map Prod.fst).drop (ks.length - 8) := by
  induction ks using List.reverseRecOn with
  | nil => rfl
  | append_singleton ks p ih =>
    rw [List.map_append, List.nodup_append] at hd
    obtain ⟨hks, -, hdisjoint⟩ := hd
    have hnew : p.1 ∉ ks.map Prod.fst := fun hin => hdisjoint _ hin p.1 (by simp) rfl
    have hkeys := ih hks
    rw [← List.length_map (f := Prod.fst)] at hkeys
    have hstep := cacheKeys_cacheInsert_last_eight hkeys hnew p.2
    rw [List.length_map] at hstep
    rw [List.foldl_append, List.map_append, List.length_append]
    exact hstep

/-- A lookup of the least recently used key makes it the most recently used one (R262). -/
theorem cacheKeys_cacheLookup_head {c : List CacheEntry} {k : Word32} {rest : List Word32} (h : cacheKeys c = k :: rest) :
    cacheKeys (cacheLookup c k).2 = rest ++ [k] := by
  obtain ⟨e, c, rfl, rfl, rfl⟩ := List.map_eq_cons_iff.mp h
  simp [cacheLookup, cacheFind, cacheRemove, cacheKeys]

/-- Settles O52: the first part by induction, the second by the lookup and the one insertion. -/
theorem cacheKeepsLastEight : Obligations.CacheKeepsLastEight := by
  refine ⟨cacheKeys_foldl_cacheInsert, fun c k k' rest bm hlength hkeys _ hnew => ?_⟩
  have hlookup := cacheKeys_cacheLookup_head hkeys
  have hrest : rest.length = 7 := by
    have := congrArg List.length hkeys
    simp only [cacheKeys_length, List.length_cons] at this
    omega
  have hfull : (cacheLookup c k).2.length = 8 := by
    rw [← cacheKeys_length, hlookup, List.length_append, hrest, List.length_singleton]
  have hnotin : k' ∉ cacheKeys (cacheLookup c k).2 := by
    rw [hkeys, List.mem_cons, not_or] at hnew
    simp [hlookup, hnew]
  have hne : rest ≠ [] := List.ne_nil_of_length_pos (by omega)
  rw [cacheKeys_cacheInsert_of_not_mem hnotin, if_pos hfull, hlookup, List.tail_append_of_ne_nil hne, List.append_assoc]
  rfl

end Sys2Proof.Machine
end

section
/-! PROOF. O57: the checks of the container parser. What it answers depends on the magic and four fields of the header,
which a container that is cut short past its header still holds, and on the length of the buffer. -/

namespace Sys2Proof.Machine

/-! ## The magic (R76) -/

/-- A list of bytes is read back from its value (R11). -/
theorem leBytes_leValue (bs : List Byte) : leBytes bs.length (leValue bs) = bs := by
  induction bs with
  | nil => rfl
  | cons b rest ih =>
    have hb := b.isLt
    have hlow : BitVec.ofNat 8 (leValue (b :: rest)) = b := BitVec.eq_of_toNat_eq (by simp [leValue]; omega)
    have hrest : leValue (b :: rest) / 256 = leValue rest := by simp only [leValue]; omega
    rw [List.length_cons, leBytes_succ, hlow, hrest, ih]

/-- Only a buffer whose first four bytes are the magic has the magic word (R76). -/
theorem take_four_of_headerMagic {buf : List Byte} (hlen : 4 ≤ buf.length) (h : headerWord buf 0 = headerMagic) :
    buf.take 4 = [0x50, 0x56, 0x52, 0x03] := by
  have hbytes : (buf.take 4).length = 4 := by rw [List.length_take]; omega
  have hvalue : leValue (buf.take 4) = 0x03525650 := by
    rw [← toNat_leWord (n := 32) (by omega)]
    exact congrArg BitVec.toNat h
  have hread := leBytes_leValue (buf.take 4)
  rw [hbytes, hvalue] at hread
  rw [← hread]
  decide

/-! ## The checks before the fields (R251) -/

theorem parseContainer_short (p : Config.Params) {buf : List Byte} (h : buf.length ≤ headerBytes) :
    parseContainer p (some buf) = .error .malformedHeader := if_pos h

/-- A buffer with another magic is rejected, whatever its length. -/
theorem parseContainer_bad_magic (p : Config.Params) {buf : List Byte} (h : buf.take 4 ≠ [0x50, 0x56, 0x52, 0x03]) :
    parseContainer p (some buf) = .error .malformedHeader := by
  by_cases hlen : buf.length ≤ headerBytes
  · exact parseContainer_short p hlen
  · have hmagic : headerWord buf 0 ≠ headerMagic := fun hm =>
      h (take_four_of_headerMagic (by rw [headerBytes] at hlen; omega) hm)
    simp only [parseContainer, if_neg hlen, if_pos hmagic]

/-! ## The fields (R251) -/

/-- The buffer is longer than a header, and holds the magic and those fields of `h` that the parser checks (R76). -/
structure HoldsHeader (buf : List Byte) (h : Header) : Prop where
  long : headerBytes < buf.length
  magic : headerWord buf 0 = headerMagic
  flags : (readHeader buf).flags = h.flags
  cspace : (readHeader buf).cspace = h.cspace
  chtype : (readHeader buf).chtype = h.chtype
  fmt : (readHeader buf).fmt = h.fmt
  metadata : headerWord buf 0x30 = BitVec.ofNat 32 h.metadata.length

section
variable {p : Config.Params} {buf : List Byte} {h : Header} (hb : HoldsHeader buf h)
include hb

/-- What the parser answers for such a buffer. -/
theorem HoldsHeader.parseContainer_eq :
    parseContainer p (some buf) =
      if 1 < h.flags.toNat then .error .malformedHeader
      else if 1 < h.cspace.toNat then .error .malformedHeader
      else if 12 < h.chtype.toNat then .error .malformedHeader
      else if bits h.fmt 63 32 = 0 ∧ isKnown p (bits h.fmt 31 0) = false then .error .unsupportedFormat
      else if buf.length < h.metadata.length % 2 ^ 32 + headerBytes then .error .malformedHeader
      else .ok (readHeader buf) := by
  simp only [parseContainer, hb.flags, hb.cspace, hb.chtype, hb.fmt, hb.metadata, BitVec.toNat_ofNat]
  rw [if_neg hb.long.not_ge, if_neg (not_not.mpr hb.magic)]

/-- A field outside its enumeration is the first thing the parser rejects. -/
theorem HoldsHeader.illegal_field (hbad : 1 < h.flags.toNat ∨ 1 < h.cspace.toNat ∨ 12 < h.chtype.toNat) :
    parseContainer p (some buf) = .error .malformedHeader := by
  rw [hb.parseContainer_eq]
  by_cases hflags : 1 < h.flags.toNat
  · rw [if_pos hflags]
  by_cases hcspace : 1 < h.cspace.toNat
  · rw [if_neg hflags, if_pos hcspace]
  · rw [if_neg hflags, if_neg hcspace, if_pos ((hbad.resolve_left hflags).resolve_left hcspace)]

variable (hflags : h.flags.toNat ≤ 1) (hcspace : h.cspace.toNat ≤ 1) (hchtype : h.chtype.toNat ≤ 12)
include hflags hcspace hchtype

/-- With legal fields the parser rejects an unknown code. -/
theorem HoldsHeader.unknown_format (hk : ¬ FormatKnown p h.fmt) :
    parseContainer p (some buf) = .error .unsupportedFormat := by
  rw [hb.parseContainer_eq, if_neg hflags.not_gt, if_neg hcspace.not_gt, if_neg hchtype.not_gt,
    if_pos (bits_of_not_formatKnown hk)]

/-- With legal fields and a known format it rejects a buffer that ends before its metadata does. -/
theorem HoldsHeader.cut_metadata (hk : FormatKnown p h.fmt) (hlen : h.metadata.length < 2 ^ 32)
    (hcut : buf.length < headerBytes + h.metadata.length) : parseContainer p (some buf) = .error .malformedHeader := by
  rw [hb.parseContainer_eq, if_neg hflags.not_gt, if_neg hcspace.not_gt, if_neg hchtype.not_gt, if_neg hk.passes,
    Nat.mod_eq_of_lt hlen, if_pos (by omega)]

end

/-! ## A container that is cut short -/

/-- A slice before the cut is the slice of the whole list. -/
theorem byteSlice_take (b : List Byte) {lo n m : Nat} (h : lo + n ≤ m) : byteSlice (b.take m) lo n = byteSlice b lo n := by
  rw [byteSlice, byteSlice, List.drop_take, List.take_take, Nat.min_eq_left (by omega)]

theorem headerWord_take (b : List Byte) {offset m : Nat} (h : offset + 4 ≤ m) :
    headerWord (b.take m) offset = headerWord b offset := by rw [headerWord, headerWord, byteSlice_take b h]

/-- A container that is longer than its header, whole or cut short past it, holds its header. -/
theorem holdsHeader_take (h : Header) {n : Nat} (hlong : 0 < h.metadata.length + h.payload.length) (hn : headerBytes < n) :
    HoldsHeader ((containerOf h).take n) h := by
  have hn' : 52 < n := hn
  constructor
  case long => rw [List.length_take, containerOf_length]; omega
  case magic => rw [headerWord_take _ (by omega), headerWord_magic]
  case metadata => rw [headerWord_take _ (by omega), headerWord_metadataLength]
  case fmt =>
    simp only [readHeader]
    rw [byteSlice_take _ (by omega)]
    simp [containerOf, byteSlice_append_front, byteSlice_append_past]
  all_goals
    simp only [readHeader]
    rw [headerWord_take _ (by omega)]
    simp [headerWord, containerOf, byteSlice_append_front, byteSlice_append_past]

/-! ## The load of a rejected container -/

theorem step_loadContainer_of_error {s : State} {buffer : Option (List Byte)} {e : ParseError} {rest : List HostEvent}
    (hh : s.host = .loadContainer buffer :: rest) (hc : s.unit.cmd = none)
    (hp : parseContainer s.params buffer = .error e) : step s = .next (s.withHost rest) := by
  rw [step_of_idle hh hc]
  rcases admittedAccess_loadContainer (s.withHost rest) buffer with ⟨h, hok, -⟩ | ⟨_, -, hstep⟩
  · cases hok.symm.trans hp
  · exact hstep

/-- Settles O57: the checks before the fields, those of the fields of a container cut short, and the load. -/
theorem badContainersAreRejected : Obligations.BadContainersAreRejected := by
  refine ⟨fun p buffer hbad => ?buffers, fun p h n hlong hn => ?containers, fun s buffer e rest hh hc hp => ?load⟩
  case buffers =>
    rcases hbad with rfl | ⟨b, rfl, hshort | hmagic⟩
    · rfl
    · exact parseContainer_short p hshort
    · exact parseContainer_bad_magic p hmagic
  case containers =>
    have hb := holdsHeader_take h hlong hn
    refine ⟨hb.illegal_field, fun hflags hcspace hchtype => ⟨hb.unknown_format hflags hcspace hchtype,
      fun hk hlen hcut => hb.cut_metadata hflags hcspace hchtype hk hlen ?_⟩⟩
    exact Nat.lt_of_le_of_lt (List.length_take_le ..) hcut
  case load => exact step_loadContainer_of_error hh hc hp

end Sys2Proof.Machine
end

section
/-! PROOF. O53: what falls between the lookup and the insertion of a miss. The operations of units outside the machine come
into the cache alone, so every gap leaves one unit, one list of writes and one image; and another unit of the machine that
misses on the same key is one excursion of the host to insert its image, and one more to finish it. -/

namespace Sys2Proof.Machine

/-! ## A miss, whatever falls into its gap (R265) -/

/-- The operations of the gap change what a lookup leaves of the cache, and nothing else. -/
theorem decodeCached_withGapOps (f : PvrtcFormat) (g : Geometry) (r : Rect) (id : Word32) (s : State)
    (ops : List CacheOp) :
    decodeCached f g r id (s.withGapOps ops) =
      (decodeCached f g r id (s.withGapOps [])).map fun t => t.withCache (cacheApplyAll t.cache ops) := by
  simp only [decodeCached, State.withGapOps_cache, State.withGapOps_unit]
  rcases (cacheLookup s.cache id).1 with _ | bm
  · rcases decodeImage f g s.unit with e | img
    · rfl
    · simp only [bind, Except.bind]
      rcases copyRegion g r img.2 img.1 with e | u <;> rfl
  · simp only [bind, Except.bind]
    rcases copyRegion g r bm s.unit with e | u <;> rfl

/-- What a unit that misses has decided on: the image it inserts, and the writes of its region (R196, R197). -/
structure MissWork (u : DecodeUnit) (f : PvrtcFormat) (g : Geometry) (r : Rect) (bm : Bitmap)
    (ws : List (Nat × Word32)) : Prop where
  image : bm.IsTexture u f g
  writes : RegionWrites u g r (texturePixel u f g.texW g.texH) ws

section
variable {fmt : Word64} {f : PvrtcFormat} {s : State} {g : Geometry} {r : Rect} {id : Word32}
  (hc : classOf s.params fmt = .pvrtc f) (hr : RegionReady s.unit g r) (hi : ImageReady s.unit g f id)
  (hmiss : id ∉ cacheKeys s.cache)
include hc hr hi hmiss

/-- A PVRTC DECODE that misses decides on one image and one list of writes for every gap. -/
theorem decodeProcedure_pvrtc_miss :
    ∃ bm c ws, MissWork s.unit f g r bm ws ∧ ∀ ops,
      decodeProcedure fmt (s.withGapOps ops) = .ok (s.imagePending c ws (some (id, bm)) (cacheApplyAll s.cache ops)) := by
  have hneed := (decodePvrtc_of_imageReady (s := s.withUnit (s.unit.withWrites [])) (r := r) hi).2
  obtain ⟨bm, c, ws, hok, hwidth, hheight, hpixel, hws⟩ :=
    decodeCached_miss (s := (s.withUnit (s.unit.withWrites [])).withGapOps []) (hr.withWrites []) rfl f
      (cacheFind_none_iff.mpr hmiss) hneed
  refine ⟨bm, c, ws, ⟨⟨hwidth, hheight, hpixel⟩, { hws with }⟩, fun ops => ?_⟩
  have hcached := (decodePvrtc_of_imageReady (s := (s.withUnit (s.unit.withWrites [])).withGapOps ops) (r := r) hi).1
  have hprocedure := decodeProcedure_pvrtc (s := s.withGapOps ops) hc hr
  refine hprocedure.trans (hcached.trans ?_)
  rw [decodeCached_withGapOps, hok]
  rfl

/-- To its end, a miss inserts its image after the operations of the gap. -/
theorem decodeCommand_pvrtc_miss_gap :
    ∃ bm ws, MissWork s.unit f g r bm ws ∧ ∀ ops,
      decodeCommand fmt (s.withGapOps ops) =
        .next (s.imageDone (writeTargets s.targets s.unit.binding ws) (cacheInsert (cacheApplyAll s.cache ops) id bm)) := by
  obtain ⟨bm, c, ws, hwork, hall⟩ := decodeProcedure_pvrtc_miss hc hr hi hmiss
  exact ⟨bm, ws, hwork, fun ops => by rw [decodeCommand_of_ok (hall ops), imagePending_finish_miss]⟩

end

/-! ## The entry of a key after its insertion (R263) -/

/-- An insertion under the key of the most recently used entry replaces that entry. -/
theorem cacheInsert_again {c : List CacheEntry} {id : Word32} (h : id ∉ cacheKeys c) (bm bm' : Bitmap) :
    ∃ d, cacheInsert c id bm = d ++ [{ key := id, bitmap := bm }] ∧
      cacheInsert (cacheInsert c id bm) id bm' = d ++ [{ key := id, bitmap := bm' }] := by
  obtain ⟨d, hd, hinsert⟩ := cacheInsert_eq_append (cacheFind_none_iff.mpr h) bm
  obtain ⟨hfind, hremove⟩ := cacheLookup_last (e := { key := id, bitmap := bm }) hd
  simp only at hfind hremove
  refine ⟨d, hinsert, ?_⟩
  rw [hinsert, cacheInsert, hfind, hremove]

/-- So the keys are those of one insertion, whatever its image. -/
theorem cacheKeys_cacheInsert_again {c : List CacheEntry} {id : Word32} (h : id ∉ cacheKeys c) (bm bm' bm'' : Bitmap) :
    cacheKeys (cacheInsert (cacheInsert c id bm) id bm') = cacheKeys (cacheInsert c id bm'') := by
  obtain ⟨d, hinsert, hagain⟩ := cacheInsert_again h bm bm'
  calc cacheKeys (cacheInsert (cacheInsert c id bm) id bm')
      = cacheKeys (cacheInsert c id bm) := by rw [hagain, hinsert, cacheKeys_append, cacheKeys_append]; rfl
    _ = cacheKeys (cacheInsert c id bm'') := by
      rw [cacheKeys_cacheInsert_of_not_mem h, cacheKeys_cacheInsert_of_not_mem h]

/-- The cache holds an image just inserted. -/
theorem Bitmap.IsTexture.holdsImage {bm : Bitmap} {u : DecodeUnit} {f : PvrtcFormat} {g : Geometry}
    (h : bm.IsTexture u f g) (c : List CacheEntry) (id : Word32) : HoldsImage (cacheInsert c id bm) id u f g := by
  refine ⟨{ key := id, bitmap := bm }, ?_, rfl, h.width, h.height, h.pixel⟩
  unfold cacheInsert
  split <;> simp

/-! ## A unit that has missed, step by step (R62, R263) -/

/-- A unit whose DECODE still has to insert the image `bm` under `id`, to make the writes `ws` and to complete. -/
def DecodeUnit.missed (u : DecodeUnit) (c : Option Cursor) (ws : List (Nat × Word32)) (id : Word32) (bm : Bitmap) :
    DecodeUnit :=
  { u with cmd := some 0, cursor := c, writes := ws, insertion := some (id, bm), completion := some .ok }

/-- The unit once its insertion is made. -/
def DecodeUnit.writing (u : DecodeUnit) (c : Option Cursor) (ws : List (Nat × Word32)) : DecodeUnit :=
  { u with cmd := some 0, cursor := c, writes := ws, insertion := none, completion := some .ok }

section
variable {s : State} {u : DecodeUnit} {c : Option Cursor} {ws : List (Nat × Word32)} {id : Word32} {bm : Bitmap}

theorem proceed_insert_missed (h : s.unit = u.missed c ws id bm) :
    s.proceed .insert = (s.withUnit (u.writing c ws)).withCache (cacheInsert s.cache id bm) := by
  cases s; cases h; rfl

theorem proceed_finish_missed (h : s.unit = u.missed c ws id bm) :
    s.proceed .finish = ((s.withUnit (u.complete (some true) .ok)).withCache (cacheInsert s.cache id bm)).withTargets
      (writeTargets s.targets u.binding ws) := by
  cases s; cases h; rfl

theorem proceed_finish_writing (h : s.unit = u.writing c ws) :
    s.proceed .finish =
      (s.withUnit (u.complete (some true) .ok)).withTargets (writeTargets s.targets u.binding ws) := by
  cases s; cases h; rfl

end

/-! ## The host's excursion to another unit (R271) -/

/-- `s` while the host drives unit `k`, whose state is `p`, among the other units `ps`. -/
def State.driving (s : State) (k : Nat) (p : DecodeUnit) (ps : List (Nat × DecodeUnit)) : State :=
  { s with unitId := k, unit := p, peers := ps }

theorem unitOf_driving {k n : Nat} (h : k ≠ n) (s : State) (p : DecodeUnit) (ps : List (Nat × DecodeUnit)) :
    (s.driving n p ps).unitOf k = findPeer ps k := if_neg h

/-- The host turns to unit `k`, makes accesses that leave it there, and turns back: unit `k` is as the accesses left it, and
the host's own unit as it was. -/
theorem runAccesses_excursion {s t : State} {k : Nat} {p : DecodeUnit} (hn : (s.unitId :: s.peers.map Prod.fst).Nodup)
    (hk : k ≠ s.unitId) (hp : findPeer s.peers k = some p) {es : List HostEvent}
    (hes : runAccesses (s.driving k p (swapPeer s.peers k s.unitId s.unit)) es = some t) (hid : t.unitId = k)
    (hpeers : t.peers = swapPeer s.peers k s.unitId s.unit) :
    ∃ ps, runAccesses s (.select k :: es ++ [.select s.unitId]) = some (t.driving s.unitId s.unit ps) ∧
      findPeer ps k = some t.unit ∧ (s.unitId :: ps.map Prod.fst).Nodup := by
  have hself : s.unitId ∉ s.peers.map Prod.fst := (List.nodup_cons.mp hn).1
  have hback : findPeer t.peers s.unitId = some s.unit := by
    rw [hpeers, findPeer_swapPeer hself hp hk.symm, if_pos rfl]
  have hturned : (k :: t.peers.map Prod.fst).Nodup := hpeers ▸ (swapPeer_perm hp).nodup_iff.mpr hn
  have hreturn := hostAccess_select (s := t) (hid ▸ hk.symm) hback
  rw [hid] at hreturn
  refine ⟨swapPeer t.peers s.unitId k t.unit, ?_, ?_, (swapPeer_perm hback).nodup_iff.mpr hturned⟩
  · rw [List.cons_append, runAccesses_cons (hostAccess_select hk hp)]
    exact (runAccesses_append hes _).trans (runAccesses_cons hreturn [])
  · rw [findPeer_swapPeer (List.nodup_cons.mp hturned).1 hback hk, if_pos rfl]

/-! ## Two units that miss on one key (R265) -/

/-- An empty gap stays empty. -/
theorem State.withGapOps_eq_self {s : State} {ops : List CacheOp} (h : s.gapOps = ops) : s.withGapOps ops = s := by
  subst h; rfl

section
variable {fmt : Word64} {f : PvrtcFormat} {s : State} {g : Geometry} {r : Rect} {id : Word32} {u : DecodeUnit}
  (hc : classOf s.params fmt = .pvrtc f) (hr : RegionReady u g r) (hi : ImageReady u g f id) (hidle : u.cmd = none)
  (hfmt : u.fmt = some fmt) (hmiss : id ∉ cacheKeys s.cache) (hgap : s.gapOps = [])
include hc hr hi hidle hfmt hmiss hgap

/-- A DECODE that is started and misses leaves its insertion, its writes and its completion to be made. -/
theorem hostAccess_start_miss (hu : s.unit = u) :
    ∃ bm c ws, MissWork u f g r bm ws ∧ hostAccess s (.start 0) = .next (s.withUnit (u.missed c ws id bm)) := by
  subst hu
  have hdispatch : dispatchFmt s.unit = fmt := by simp [dispatchFmt, hfmt]
  obtain ⟨bm, c, ws, hwork, hall⟩ := decodeProcedure_pvrtc_miss (s := issue s 0) hc { hr with } hi hmiss
  have hprocedure := hall []
  rw [State.withGapOps_eq_self (s := issue s 0) hgap] at hprocedure
  refine ⟨bm, c, ws, ⟨{ hwork.image with }, { hwork.writes with }⟩, ?_⟩
  have hpending : (issue s 0).imagePending c ws (some (id, bm)) (cacheApplyAll (issue s 0).cache []) =
      (s.withUnit (s.unit.missed c ws id bm)).withGapOps [] := rfl
  rw [hostAccess_start_zero hidle, hdispatch, startDecode, hprocedure, finish_ok, hpending,
    State.withGapOps_eq_self (s := s.withUnit (s.unit.missed c ws id bm)) hgap]

/-- The host turns to a unit that misses, lets it make its insertion, and turns back. -/
theorem runAccesses_start_insert_peer {k : Nat} (hn : (s.unitId :: s.peers.map Prod.fst).Nodup) (hk : k ≠ s.unitId)
    (hp : findPeer s.peers k = some u) :
    ∃ bm c ws ps, MissWork u f g r bm ws ∧
      runAccesses s [.select k, .start 0, .proceed .insert, .select s.unitId] =
        some ((s.withCache (cacheInsert s.cache id bm)).driving s.unitId s.unit ps) ∧
      findPeer ps k = some (u.writing c ws) ∧ (s.unitId :: ps.map Prod.fst).Nodup := by
  obtain ⟨bm, c, ws, hwork, hstart⟩ :=
    hostAccess_start_miss (s := s.driving k u (swapPeer s.peers k s.unitId s.unit)) hc hr hi hidle hfmt hmiss hgap rfl
  have hrun := runAccesses_cons hstart [.proceed .insert]
  rw [runAccesses_proceed, proceed_insert_missed rfl] at hrun
  obtain ⟨ps, hexcursion, hpeer, hnumbers⟩ := runAccesses_excursion hn hk hp hrun rfl rfl
  exact ⟨bm, c, ws, ps, hwork, hexcursion, hpeer, hnumbers⟩

end

/-- The host turns to a unit that still has to write and to complete, lets it finish, and turns back. -/
theorem runAccesses_finish_writing_peer {s : State} {k : Nat} {u : DecodeUnit} {c : Option Cursor}
    {ws : List (Nat × Word32)} (hn : (s.unitId :: s.peers.map Prod.fst).Nodup) (hk : k ≠ s.unitId)
    (hp : findPeer s.peers k = some (u.writing c ws)) :
    ∃ ps, runAccesses s [.select k, .proceed .finish, .select s.unitId] =
        some ((s.withTargets (writeTargets s.targets u.binding ws)).driving s.unitId s.unit ps) ∧
      findPeer ps k = some (u.complete (some true) .ok) := by
  have hrun := runAccesses_proceed (s.driving k (u.writing c ws) (swapPeer s.peers k s.unitId s.unit)) .finish []
  rw [proceed_finish_writing rfl] at hrun
  obtain ⟨ps, hexcursion, hpeer, -⟩ := runAccesses_excursion hn hk hp hrun rfl rfl
  exact ⟨ps, hexcursion, hpeer⟩

/-- The host's own unit, which has missed, and then the other one finish their commands. -/
theorem runAccesses_finish_missed_then_writing {s : State} {k : Nat} {u v : DecodeUnit} {c c' : Option Cursor}
    {ws ws' : List (Nat × Word32)} {id : Word32} {bm : Bitmap} (hn : (s.unitId :: s.peers.map Prod.fst).Nodup)
    (hk : k ≠ s.unitId) (hu : s.unit = u.missed c ws id bm) (hp : findPeer s.peers k = some (v.writing c' ws')) :
    ∃ t, runAccesses s [.proceed .finish, .select k, .proceed .finish, .select s.unitId] = some t ∧
      t.unit = u.complete (some true) .ok ∧ t.unitOf k = some (v.complete (some true) .ok) ∧
      t.targets = writeTargets (writeTargets s.targets u.binding ws) v.binding ws' ∧
      t.cache = cacheInsert s.cache id bm := by
  obtain ⟨ps, hfinish, hpeer⟩ := runAccesses_finish_writing_peer
    (s := ((s.withUnit (u.complete (some true) .ok)).withCache (cacheInsert s.cache id bm)).withTargets
      (writeTargets s.targets u.binding ws)) hn hk hp
  rw [runAccesses_proceed, proceed_finish_missed hu]
  exact ⟨_, hfinish, rfl, (unitOf_driving hk ..).trans hpeer, rfl, rfl⟩

/-- Two units that miss on one key, the other unit's insertion first: each completes with the writes of its own region, and
the insertion of the host's own unit replaces the other's. -/
theorem runAccesses_two_misses {s : State} {k : Nat} {v : DecodeUnit} {fmt fmt' : Word64} {f f' : PvrtcFormat}
    {g g' : Geometry} {r r' : Rect} {id : Word32} (hn : (s.unitId :: s.peers.map Prod.fst).Nodup) (hk : k ≠ s.unitId)
    (hp : findPeer s.peers k = some v) (hmiss : id ∉ cacheKeys s.cache) (hgap : s.gapOps = [])
    (hc : classOf s.params fmt = .pvrtc f) (hr : RegionReady s.unit g r) (hi : ImageReady s.unit g f id)
    (hidle : s.unit.cmd = none) (hfmt : s.unit.fmt = some fmt)
    (hc' : classOf s.params fmt' = .pvrtc f') (hr' : RegionReady v g' r') (hi' : ImageReady v g' f' id)
    (hidle' : v.cmd = none) (hfmt' : v.fmt = some fmt') :
    ∃ t bm bm' ws ws', MissWork s.unit f g r bm ws ∧ MissWork v f' g' r' bm' ws' ∧
      runAccesses s [.start 0, .select k, .start 0, .proceed .insert, .select s.unitId, .proceed .finish, .select k,
        .proceed .finish, .select s.unitId] = some t ∧
      t.unit = s.unit.complete (some true) .ok ∧ t.unitOf k = some (v.complete (some true) .ok) ∧
      t.targets = writeTargets (writeTargets s.targets s.unit.binding ws) v.binding ws' ∧
      t.cache = cacheInsert (cacheInsert s.cache id bm') id bm := by
  obtain ⟨bm, c, ws, hwork, hstart⟩ := hostAccess_start_miss hc hr hi hidle hfmt hmiss hgap rfl
  obtain ⟨bm', c', ws', ps, hwork', hinsert, hpeer, hnumbers⟩ := runAccesses_start_insert_peer
    (s := s.withUnit (s.unit.missed c ws id bm)) hc' hr' hi' hidle' hfmt' hmiss hgap hn hk hp
  obtain ⟨t, hfinish, hend⟩ := runAccesses_finish_missed_then_writing
    (s := ((s.withUnit (s.unit.missed c ws id bm)).withCache (cacheInsert s.cache id bm')).driving s.unitId
      (s.unit.missed c ws id bm) ps) hnumbers hk rfl hpeer
  refine ⟨t, bm, bm', ws, ws', hwork, hwork', ?_, hend⟩
  exact (runAccesses_cons hstart _).trans ((runAccesses_append hinsert _).trans hfinish)

/-- Where two units are bound to different target memories, each memory takes the writes of its own unit (R286). -/
theorem writesRegion_of_two_bindings {u v : DecodeUnit} {g g' : Geometry} {r r' : Rect}
    {pixel pixel' : Nat → Nat → Pixel} {ws ws' : List (Nat × Word32)} {b b' : Nat}
    (ts : List (Nat × List (Nat × Word32))) (hb : b' ≠ b) (hfit : r.x1 ≤ g.tgtW) (hfit' : r'.x1 ≤ g'.tgtW)
    (h : RegionWrites u g r pixel ws) (h' : RegionWrites v g' r' pixel' ws') :
    WritesRegion (targetOf ts b) (targetOf (writeTargets (writeTargets ts b ws) b' ws') b) g r pixel ∧
      WritesRegion (targetOf ts b') (targetOf (writeTargets (writeTargets ts b ws) b' ws') b') g' r' pixel' := by
  simp only [targetOf_writeTargets, hb, hb.symm, if_true, if_false]
  exact ⟨writeAll_writesRegion hfit h.exact, writeAll_writesRegion hfit' h'.exact⟩

/-- Settles O53: the gap of units outside the machine, then the two units of the machine. -/
theorem operationsInTheGap : Obligations.OperationsInTheGap := by
  refine ⟨fun p hp s g r id hr hk hi _ hmiss => ?gap,
    fun p hp q hq s k v g g' r r' id hn hv hkne hidle hidle' hfmt hfmt' hr hr' hk hk' hi hi' _ hmiss hgap hb => ?units⟩
  case gap =>
    have himage := pvrtcDecodes_decodesImage hp hk
    obtain ⟨bm, ws, hwork, hall⟩ := decodeCommand_pvrtc_miss_gap himage.pvrtc hr hi hmiss
    have hexec (ops : List CacheOp) := (himage.command (s.withGapOps ops)).trans (hall ops)
    have hholds (ops : List CacheOp) := hwork.image.holdsImage (cacheApplyAll s.cache ops) id
    refine ⟨⟨_, hexec [.flush], rfl, hholds [.flush]⟩,
      fun bm' => ⟨_, hexec [.insert id bm'], ?_, hholds [.insert id bm']⟩,
      fun ops => ⟨_, _, hexec ops, hexec [], rfl, rfl⟩⟩
    exact cacheKeys_cacheInsert_again hmiss bm' bm bm'
  case units =>
    have hpeer : findPeer s.peers k = some v := (if_neg hkne).symm.trans hv
    obtain ⟨t, bm, bm', ws, ws', hwork, hwork', hrun, hunit, hother, htargets, hcache⟩ :=
      runAccesses_two_misses hn hkne hpeer hmiss hgap ((pvrtcDecodes_named p hp).pvrtc hk).classOf_eq hr hi hidle hfmt
        ((pvrtcDecodes_named q hq).pvrtc hk').classOf_eq hr' hi' hidle' hfmt'
    obtain ⟨hregion, hregion'⟩ :=
      writesRegion_of_two_bindings s.targets hb hr.fitsW hr'.fitsW hwork.writes hwork'.writes
    refine ⟨t, hrun, hunit, hother, htargets ▸ hregion, htargets ▸ hregion', fun bm'' => ?_, ?_⟩
    · rw [hcache]
      exact cacheKeys_cacheInsert_again hmiss bm' bm bm''
    · rw [hcache]
      exact hwork.image.holdsImage _ id

end Sys2Proof.Machine
end

section
/-! PROOF. O14: the refusal of a stale hit. A refused command is a DECODE whose family procedure stops at its region copy, so
its format's class is a PVRTC one; the code of that class names the command. -/

namespace Sys2Proof.Machine

/-! ## The command of a PVRTC class (R72, R221) -/

/-- Two DECODE commands of one format word are one command (R70, R72). -/
theorem eq_of_encodeFmt_eq {i j : Instr} (hi : isDecodeCommand i = true) (hj : isDecodeCommand j = true)
    (h : encodeFmt i = encodeFmt j) : i = j := by
  obtain ⟨hwfi, hcmdi⟩ := Bool.and_eq_true_iff.mp hi
  obtain ⟨hwfj, hcmdj⟩ := Bool.and_eq_true_iff.mp hj
  have hcmd : encodeCmd i = encodeCmd j := (eq_of_beq hcmdi).trans (eq_of_beq hcmdj).symm
  rw [← decodeCommandWord_encode hwfi, h, hcmd, decodeCommandWord_encode hwfj]

/-- The codes with a PVRTC datapath are those of the PVRTC DECODE commands. -/
theorem exists_pvrtcDecode_of_datapathOf {n : Nat} {f : PvrtcFormat} (h : datapathOf n = some (.pvrtc f)) :
    ∃ p ∈ pvrtcDecodes, p.2.2 = n := by
  unfold datapathOf at h
  split at h
  case h_1 => exact ⟨(.decodePvrtc2bppRgb, .rgb2, 0), by decide, rfl⟩
  case h_2 => exact ⟨(.decodePvrtc2bppRgba, .rgba2, 1), by decide, rfl⟩
  case h_3 => exact ⟨(.decodePvrtc4bppRgb, .rgb4, 2), by decide, rfl⟩
  case h_4 => exact ⟨(.decodePvrtc4bppRgba, .rgba4, 3), by decide, rfl⟩
  all_goals cases h

/-- A format word of a PVRTC class is a code with a PVRTC datapath: a custom format is of class FALLBACK. -/
theorem datapathOf_of_classOf_pvrtc {p : Config.Params} {fmt : Word64} {f : PvrtcFormat}
    (h : classOf p fmt = .pvrtc f) : datapathOf fmt.toNat = some (.pvrtc f) := by
  by_cases hcustom : 2 ^ 32 ≤ fmt.toNat
  · rw [classOf_custom p hcustom] at h
    cases h
  · have hfmt : fmt = BitVec.ofNat 64 fmt.toNat := by simp
    rw [hfmt, classOf_named p (Nat.not_le.mp hcustom)] at h
    split at h
    · cases h
    · split at h
      · split at h <;> cases h
      · next hd => exact hd.trans (congrArg some h)
      · cases h

/-- A DECODE whose format is of a PVRTC class is one of the four PVRTC DECODE commands. -/
theorem exists_pvrtcDecode_of_classOf {p : Config.Params} {i : Instr} {f : PvrtcFormat} (hi : isDecodeCommand i = true)
    (hc : classOf p (encodeFmt i) = .pvrtc f) : ∃ q ∈ pvrtcDecodes, i = q.1 := by
  obtain ⟨q, hq, hcode⟩ := exists_pvrtcDecode_of_datapathOf (datapathOf_of_classOf_pvrtc hc)
  obtain ⟨hdecode, hfmt, -, -⟩ := pvrtcDecodes_named q hq
  refine ⟨q, hq, eq_of_encodeFmt_eq hi hdecode ?_⟩
  rw [hfmt, hcode, BitVec.ofNat_toNat, BitVec.setWidth_eq]

/-! ## A stale hit (R198, R287) -/

/-- A DECODE of the format word `fmt` on `s` hits a bitmap that lacks a pixel of its region. -/
structure StaleHit (fmt : Word64) (s : State) (f : PvrtcFormat) (g : Geometry) (r : Rect) (e : CacheEntry) (x y : Nat) :
    Prop where
  pvrtc : classOf s.params fmt = .pvrtc f
  ready : RegionReady s.unit g r
  infoId : s.unit.infoId = some e.key
  found : cacheFind s.cache e.key = some e
  inside : r.contains x y = true
  lacking : e.bitmap.pixel x y = none

/-- A DECODE is refused where its procedure is: what the procedure leaves to be made cannot be refused (R62). -/
theorem decodeCommand_refused_iff {fmt : Word64} {s : State} {q : Refusal} :
    decodeCommand fmt s = .refused q ↔ decodeProcedure fmt s = .error (.refuse q) := by
  rw [decodeCommand, finish_refused_iff]
  cases decodeProcedure fmt s <;> simp [Except.map]

/-- Of what a DECODE can do, only a stale hit is a refusal. -/
theorem decodeCommand_refused {fmt : Word64} {s : State} {q : Refusal} (h : decodeCommand fmt s = .refused q) :
    q = .bitmapTooSmall ∧ ∃ f g r e x y, StaleHit fmt s f g r e x y := by
  rw [decodeCommand_refused_iff] at h
  rcases decodeEntry_cases s.params fmt s.unit with ⟨e, he, -⟩ | he | ⟨he, -⟩ | ⟨g, r, he, hr, hk⟩
  · simp [decodeProcedure_error he] at h
  · simp [decodeProcedure_null he] at h
  · simp [decodeProcedure_empty he] at h
  · rw [decodeProcedure_run he] at h
    rcases decodeFamily_cases (s := s.withUnit (s.unit.withWrites [])) (hr.withWrites []) rfl hk with
      ⟨e, hend, -⟩ | ⟨c, ws, px, n, -, hend, -⟩ | ⟨f, id, c, ws, px, e, d, -, -, hend, -⟩ |
      ⟨f, id, e, hf, hid, hfound, hend, x, y, hxy, hnone⟩ <;> rw [hend] at h <;> cases h
    obtain rfl : e.key = id := (cacheFind_some hfound).2
    exact ⟨rfl, f, g, r, e, x, y, hf, hr, hid, hfound, hxy, hnone⟩

/-- A stale hit is refused once the checks of the payload have passed (R197, R287). -/
theorem StaleHit.decodeCommand_eq {fmt : Word64} {s : State} {f : PvrtcFormat} {g : Geometry} {r : Rect} {e : CacheEntry}
    {x y : Nat} (h : StaleHit fmt s f g r e x y) (hi : ImageReady s.unit g f e.key) :
    decodeCommand fmt s = .refused .bitmapTooSmall := by
  obtain ⟨hcached, -⟩ := decodePvrtc_of_imageReady (s := s.withUnit (s.unit.withWrites [])) (r := r) hi
  rw [decodeCommand_refused_iff, decodeProcedure_pvrtc h.pvrtc h.ready, hcached]
  rcases decodeCached_hit (s := s.withUnit (s.unit.withWrites [])) (h.ready.withWrites []) rfl f h.found with
    ⟨pixel, -, -, hpixel, -, -⟩ | ⟨hstop, -⟩
  · exact absurd (h.lacking.symm.trans (hpixel x y h.inside)) (by simp)
  · exact hstop

/-- A BLOCK is never refused (R234). -/
theorem blockCommand_ne_refused (fmt : Word64) (s : State) (q : Refusal) : blockCommand fmt s ≠ .refused q := by
  rw [blockCommand, Ne, finish_refused_iff]
  rcases blockProcedure_cases fmt s with ⟨-, h⟩ | ⟨-, -, h⟩ | ⟨c, -, -, h | ⟨bytes, -, h⟩⟩ <;> simp [h]

/-- Of the commands, only a DECODE can be refused, and only at a stale hit. -/
theorem exec_refused {i : Instr} {s : State} {q : Refusal} (hi : i.wellFormed = true) (h : exec i s = .refused q) :
    isDecodeCommand i = true ∧ q = .bitmapTooSmall ∧ ∃ f g r e x y, StaleHit (encodeFmt i) s f g r e x y := by
  rcases encodeCmd_cases i with hcmd | hcmd | rfl | ⟨w, rfl⟩
  · have hdecode : isDecodeCommand i = true := by simp [isDecodeCommand_eq hi, hcmd]
    rw [exec_decode hdecode] at h
    exact ⟨hdecode, decodeCommand_refused h⟩
  · have hblock : isBlockCommand i = true := by simp [isBlockCommand, hi, hcmd]
    rw [exec_block hblock] at h
    exact absurd h (blockCommand_ne_refused _ s q)
  · cases h
  · cases h

/-- Settles O14: a refusal is that of a stale hit, and a stale hit whose payload reaches far enough is refused. -/
theorem onlyStaleHitsAreRefused : Obligations.OnlyStaleHitsAreRefused := by
  refine ⟨fun i s q hi h => ?refused, fun p hp s g r e x y hr hk hi hdistinct he hxy hnone => ?stale⟩
  case refused =>
    obtain ⟨hdecode, hq, f, g, r, e, x, y, hstale⟩ := exec_refused hi h
    obtain ⟨p, hp, hip⟩ := exists_pvrtcDecode_of_classOf hdecode hstale.pvrtc
    exact ⟨hq, p, hp, hip, e, (cacheFind_some hstale.found).1, hstale.infoId, g, r, x, y, hstale.ready, hstale.inside,
      hstale.lacking⟩
  case stale =>
    have himage := pvrtcDecodes_decodesImage hp hk
    have hstale : StaleHit (BitVec.ofNat 64 p.2.2) s p.2.1 g r e x y :=
      ⟨himage.pvrtc, hr, hi.1, cacheFind_of_mem hdistinct he, hxy, hnone⟩
    exact (himage.command s).trans (hstale.decodeCommand_eq hi)

end Sys2Proof.Machine
end

section
/-! PROOF. O9: the RESET. It is admitted where every unit is idle, and it gives each unit, by number, the reset values with
its own payload and binding. -/

namespace Sys2Proof.Machine

/-- No command is in progress where every unit's `CMD` is empty (R44). -/
theorem allIdle_iff (s : State) : allIdle s = true ↔ s.unit.cmd = none ∧ ∀ p ∈ s.peers, p.2.cmd = none := by
  simp [allIdle]

/-- The RESET acts on every unit or is refused (R280). -/
theorem step_reset {s : State} {rest : List HostEvent} (hh : s.host = .reset :: rest) :
    step s = if allIdle s then .next (resetAll (s.withHost rest)) else .refused .commandInProgress := by
  rw [step_of_free hh rfl, admittedAccess_reset]
  rfl

/-- An update of every unit that keeps the numbers is found under the same numbers (R271). -/
theorem findPeer_map (update : DecodeUnit → DecodeUnit) (peers : List (Nat × DecodeUnit)) (k : Nat) :
    findPeer (peers.map fun p => (p.1, update p.2)) k = (findPeer peers k).map update := by
  induction peers with
  | nil => rfl
  | cons p rest ih =>
    rw [List.map_cons, findPeer, findPeer, ih]
    split <;> rfl

/-- The RESET leaves every number with its unit (R271, R280). -/
theorem unitOf_resetAll (s : State) (k : Nat) : (resetAll s).unitOf k = (s.unitOf k).map resetDecodeUnit := by
  by_cases hk : k = s.unitId
  · simp [State.unitOf, resetAll, hk]
  · simp [State.unitOf, resetAll, hk, findPeer_map]

theorem resetDecodeUnit_config (u : DecodeUnit) (r : ConfigReg) : (resetDecodeUnit u).config r = none := by cases r <;> rfl

theorem resetDecodeUnit_blkIn_get (u : DecodeUnit) (i : Fin 32) : (resetDecodeUnit u).blkIn.get i = none :=
  Vector.get_replicate 32 none i

theorem resetDecodeUnit_blkOut_get (u : DecodeUnit) (i : Fin 32) : (resetDecodeUnit u).blkOut.get i = none :=
  Vector.get_replicate 32 none i

/-- Settles O9: the refusal, and the reset of every unit under its number. -/
theorem resetActsOnEveryUnit : Obligations.ResetActsOnEveryUnit := by
  refine ⟨fun s rest hh hbusy => ?busy, fun s rest hh hunit hpeers => ?idle⟩
  case busy =>
    refine (step_reset hh).trans (if_neg fun hall => ?_)
    obtain ⟨hunit, hpeers⟩ := (allIdle_iff s).mp hall
    rcases hbusy with hcmd | ⟨p, hp, hcmd⟩
    · exact hcmd hunit
    · exact hcmd (hpeers p hp)
  case idle =>
    refine ⟨_, (step_reset hh).trans (if_pos ((allIdle_iff s).mpr ⟨hunit, hpeers⟩)), rfl, rfl, fun k u hu => ?_⟩
    have hreset : (resetAll (s.withHost rest)).unitOf k = some (resetDecodeUnit u) :=
      (unitOf_resetAll _ k).trans (congrArg (Option.map resetDecodeUnit) hu)
    exact ⟨_, hreset, rfl, resetDecodeUnit_config u, resetDecodeUnit_blkIn_get u, rfl, rfl, rfl, rfl,
      resetDecodeUnit_blkOut_get u, rfl, rfl, rfl, rfl, rfl⟩

end Sys2Proof.Machine
end
